-- ==== Sys2Proof/Word.lean ====
section
/-! DEFINITION. The value types of the block (00_scope.md R9, R11, R12).

The carrier of the real-valued quantities is a parameter `N` of every type that holds one; `Num` is the
carrier of the reference instantiation (log 2). The integer types are bit vectors, two's complement,
bit 0 the least significant bit. -/

namespace Sys2Proof

/-- The carrier of the reference instantiation: the rationals (R9; DESIGN CHOICE, log 2). -/
abbrev Num := Rat

/-- `Int32`: 32 bits, two's complement (R11). -/
abbrev I32 := BitVec 32

/-- `Int16`: the range of the pulse counter (R11). -/
abbrev I16 := BitVec 16

/-- A command word, a bus header or the flag byte of a tick record (R81, R82, R88). -/
abbrev Byte := BitVec 8

/-- A register number, `W_REGNUM` = 6 bits (R8, R21). -/
abbrev RegNum := BitVec 6

/-- The step counter `PHASE`, 3 bits (R50). -/
abbrev Phase := BitVec 3

end Sys2Proof
end

