-- ==== Sys2Proof/Config.lean ====
section
/-! DEFINITION. What is fixed for the block, the parameters the model takes as an argument, and the
values the spec leaves open.

A constant with no body is a free value: nothing can be proved of it, so what is proved of the
model holds whatever it is. -/

namespace Sys2Proof

/-- `RATE_MS_PER_MIN`: milliseconds per minute in the speed formula (00_scope.md R8). -/
def Config.rateMsPerMin : Int := 60000

/-- The parameters of the spec (00_scope.md R8, 10_state.md R55): the carrier `N` of `Num` with its
operations, each of which may round once (R9, R10), and `GAIN_VALID`. Every operation of the block takes
them as an argument. What the operations do with a value that is not finite is theirs to say
(93_implementation_defined.md U4). -/
structure Params (N : Type) where
  /-- `ofInt(i)`. -/
  ofInt : Int → N
  /-- `a +N b`. -/
  add : N → N → N
  /-- `a -N b`. -/
  sub : N → N → N
  /-- `a *N b`. -/
  mul : N → N → N
  /-- `a /N b`. -/
  div : N → N → N
  /-- `a <N b`. -/
  lt : N → N → Bool
  /-- `a <=N b`. -/
  le : N → N → Bool
  /-- `a >=N b`. -/
  ge : N → N → Bool
  /-- `a =N b`; no rule of the spec uses it. -/
  eq : N → N → Bool
  /-- `truncI(v)`. -/
  trunc : N → Int
  /-- `GAIN_VALID(kp, ki, kd)`. -/
  gainValid : N → N → N → Bool

/-- Which gains are in range, which the spec leaves open (00_scope.md R8, D13, U2): free, by the gains
(log 4). -/
opaque Config.gainRange : Num → Num → Num → Bool

/-- The quotient of a division by zero, of which R10 gives no value: free, by dividend (log 3). -/
opaque Config.divByZero : Num → Num

/-- Of a tick and a bus access that arrive together, whether the tick is taken first: either order
is allowed (20_memory.md R66, 60_exceptions.md R188), so it is free (log 10). -/
opaque Config.tickFirst : Nat → Bool

/-- A duty of the external PWM peripheral, by channel, before the first write: any value
(93_implementation_defined.md U8, log 11). -/
opaque Config.dutyBeforeFirstWrite : Nat → I32

/-- A duty of the external PWM peripheral after a write that failed: any value
(93_implementation_defined.md U3, log 11). -/
opaque Config.dutyAfterFailedWrite : Nat → I32

end Sys2Proof
end

