-- ==== Sys2Proof/Syntax.lean ====
section
/-! DEFINITION. The operations of the block, the register names, and what travels on its channels
(30_encoding.md R80 to R90). -/

namespace Sys2Proof

/-- The tagged value a bus access carries: `int i` or `num v` (30_encoding.md R83). -/
inductive Payload (N : Type) where
  | int (i : I32)
  | num (v : N)
deriving DecidableEq, Repr

/-- The two types a cell or a payload can have (10_state.md R22). -/
inductive CellType where
  | int
  | num
deriving DecidableEq, Repr

/-- The eleven operations (30_encoding.md R80, R85), one constructor per row of the opcode table.
Only the two bus operations have operands (R84). The carrier `N` is that of the payloads (R55). -/
inductive Instr (N : Type := Num) where
  /-- `NOP`, host command, 46_host_access_and_construction.md R164. -/
  | nop
  /-- `INIT`, host command, 46_host_access_and_construction.md R165. -/
  | init
  /-- `TICK`, host command and tick input, 45_loop_driver.md R145. -/
  | tick
  /-- `RDRST`, step 1, 41_pulse_counter.md R101. -/
  | rdrst
  /-- `EST`, step 2, 42_velocity_estimator.md R110. -/
  | est
  /-- `TGT`, step 3, 43_target_and_pid.md R120. -/
  | tgt
  /-- `PID`, step 4, 43_target_and_pid.md R122. -/
  | pid
  /-- `MAP`, step 5, 44_pwm_mapper.md R135. -/
  | map
  /-- `COMMIT`, step 6, 45_loop_driver.md R148. -/
  | commit
  /-- `RD`, bus read of one cell, 46_host_access_and_construction.md R160. -/
  | rd (addr : RegNum)
  /-- `WR`, bus write of one cell, 46_host_access_and_construction.md R161. -/
  | wr (addr : RegNum) (wdata : Payload N)
deriving DecidableEq, Repr

/-- Where an operation can arrive from (30_encoding.md R85, R89): the data path of `CMD`, the
micro-program, the bus, the tick input. The channel tells the format. -/
inductive Channel where
  | cmd
  | microProgram
  | bus
  | tickInput
deriving DecidableEq, Repr

/-- What arrives on a channel (30_encoding.md R81, R82, R88, R89): the `Int32` written to `CMD`, an
8-bit micro-program entry, a bus header with the payload that follows it, a pulse on the tick
input. -/
inductive Wire (N : Type) where
  | cmd (w : I32)
  | micro (w : Byte)
  | bus (header : Byte) (payload : Option (Payload N))
  | tickPulse
deriving DecidableEq, Repr

/-- The channel a wire value arrives on. -/
def Wire.channel {N : Type} : Wire N → Channel
  | .cmd _ => .cmd
  | .micro _ => .microProgram
  | .bus _ _ => .bus
  | .tickPulse => .tickInput

/-- A format T record as bits (30_encoding.md R88): the count, the flag byte, the target (whose bits
are the open `NUM_ENC`, so it is a value here, log 5). -/
structure TickRecord (N : Type) where
  cnt : I16
  flags : Byte
  tgt : N
deriving DecidableEq, Repr

/-- The tick sample, the values the ports present (30_encoding.md R88). -/
structure TickSample (N : Type) where
  /-- What `CntRead()` returns: the external pulse count (10_state.md R53). -/
  cnt : I16
  /-- The pulse-counter adapter reports a failure. -/
  cntFail : Bool
  /-- What `TargetSample()` returns. -/
  tgt : N
  /-- The PWM adapter reports that this cycle's write failed. -/
  pwmFail : Bool
deriving DecidableEq, Repr

/-- The assigned cells of the register space by name (10_state.md R21). -/
inductive Reg where
  | cmd | status | cause | cfgDetail
  | gear | encRes | sampleMs | pwmMin | pwmMax | ctrl | kp | ki | kd | klpf | iclampLo | iclampHi
  | vel | velPrev | pPrev | iPrev | target
  | dutyA | dutyB
  | delta | raw | pNew | iNew | dNew | u
deriving DecidableEq, Repr

/-- The banks of the register space (10_state.md R21, 20_memory.md R64). -/
inductive Bank where
  | system
  | motorConfig
  | controllerState
  | pwmCommand
  | latches
deriving DecidableEq, Repr

/-- The names under which the decoder rejects what is no operation (30_encoding.md R86, R82, R88). -/
inductive DecodeError where
  /-- A command word with any of bits 31:4 set, R86 (a). -/
  | highBits
  /-- A reserved opcode 0x3 to 0x7, 0xE, 0xF, R86 (b). -/
  | reservedOpcode
  /-- A micro-operation opcode written to `CMD`, R86 (c). -/
  | microOnCmd
  /-- A host command as a micro-program entry: R87 has none. -/
  | hostCommandInMicroProgram
  /-- A bus header with bit 6 set, R82. -/
  | headerBit6
  /-- A write header with no payload after it, R89. -/
  | payloadMissing
  /-- A read header with a payload after it, R89. -/
  | payloadOnRead
  /-- A tick record with any of bits 7:2 of the flag byte set, R88. -/
  | sampleFlags
deriving DecidableEq, Repr

end Sys2Proof
end

