-- ==== Sys2Proof/WellFormed.lean ====
section
/-! DEFINITION. Where each operation is legal (30_encoding.md R85, R89). The operand fields need no
check: an `addr` has 6 bits and a payload its tag by their types. -/

namespace Sys2Proof

/-- The six micro-operations, the steps of one cycle (30_encoding.md R85, R87). -/
def Instr.isMicro {N : Type} : Instr N → Bool
  | .nop => false
  | .init => false
  | .tick => false
  | .rdrst => true
  | .est => true
  | .tgt => true
  | .pid => true
  | .map => true
  | .commit => true
  | .rd _ => false
  | .wr _ _ => false

/-- The column "where legal" of R85: host commands on `CMD`, `TICK` on the tick input as well,
micro-operations in the micro-program only, `RD` and `WR` on the bus. -/
def wellFormed {N : Type} (c : Channel) (i : Instr N) : Bool :=
  match i with
  | .nop => c = .cmd
  | .init => c = .cmd
  | .tick => c = .cmd || c = .tickInput
  | .rdrst => c = .microProgram
  | .est => c = .microProgram
  | .tgt => c = .microProgram
  | .pid => c = .microProgram
  | .map => c = .microProgram
  | .commit => c = .microProgram
  | .rd _ => c = .bus
  | .wr _ _ => c = .bus

end Sys2Proof
end

