-- ==== Sys2Proof/Decode.lean ====
section
/-! DEFINITION. The register numbers, the decoder of every channel, the encoder, and the tick record
(10_state.md R21, 30_encoding.md R81 to R89). Both directions are written from the same tables. -/

namespace Sys2Proof

variable {N : Type}

/-! ### Register numbers -/

/-- The number of each cell (10_state.md R21). -/
def Reg.number : Reg → RegNum
  | .cmd => 0x00
  | .status => 0x01
  | .cause => 0x02
  | .cfgDetail => 0x03
  | .gear => 0x08
  | .encRes => 0x09
  | .sampleMs => 0x0A
  | .pwmMin => 0x0B
  | .pwmMax => 0x0C
  | .ctrl => 0x0D
  | .kp => 0x0E
  | .ki => 0x0F
  | .kd => 0x10
  | .klpf => 0x11
  | .iclampLo => 0x12
  | .iclampHi => 0x13
  | .vel => 0x18
  | .velPrev => 0x19
  | .pPrev => 0x1A
  | .iPrev => 0x1B
  | .target => 0x1C
  | .dutyA => 0x20
  | .dutyB => 0x21
  | .delta => 0x28
  | .raw => 0x29
  | .pNew => 0x2A
  | .iNew => 0x2B
  | .dNew => 0x2C
  | .u => 0x2D

/-- The cell a number names; `none` for the unassigned numbers 0x04-0x07, 0x14-0x17, 0x1D-0x1F,
0x22-0x27, 0x2E-0x3F (10_state.md R21, 20_memory.md R64). -/
def Reg.ofNumber (n : RegNum) : Option Reg :=
  match n.toNat with
  | 0x00 => some .cmd
  | 0x01 => some .status
  | 0x02 => some .cause
  | 0x03 => some .cfgDetail
  | 0x08 => some .gear
  | 0x09 => some .encRes
  | 0x0A => some .sampleMs
  | 0x0B => some .pwmMin
  | 0x0C => some .pwmMax
  | 0x0D => some .ctrl
  | 0x0E => some .kp
  | 0x0F => some .ki
  | 0x10 => some .kd
  | 0x11 => some .klpf
  | 0x12 => some .iclampLo
  | 0x13 => some .iclampHi
  | 0x18 => some .vel
  | 0x19 => some .velPrev
  | 0x1A => some .pPrev
  | 0x1B => some .iPrev
  | 0x1C => some .target
  | 0x20 => some .dutyA
  | 0x21 => some .dutyB
  | 0x28 => some .delta
  | 0x29 => some .raw
  | 0x2A => some .pNew
  | 0x2B => some .iNew
  | 0x2C => some .dNew
  | 0x2D => some .u
  | _ => none

/-- The bank of each cell (10_state.md R21, 20_memory.md R64). -/
def Reg.bank : Reg → Bank
  | .cmd | .status | .cause | .cfgDetail => .system
  | .gear | .encRes | .sampleMs | .pwmMin | .pwmMax | .ctrl
  | .kp | .ki | .kd | .klpf | .iclampLo | .iclampHi => .motorConfig
  | .vel | .velPrev | .pPrev | .iPrev | .target => .controllerState
  | .dutyA | .dutyB => .pwmCommand
  | .delta | .raw | .pNew | .iNew | .dNew | .u => .latches

/-- The type of each cell (10_state.md R21, R22); a command word and the bit-field cells travel as
`Int32` (30_encoding.md R83). -/
def Reg.cellType : Reg → CellType
  | .cmd | .status | .cause | .cfgDetail => .int
  | .sampleMs | .pwmMin | .pwmMax | .ctrl => .int
  | .gear | .encRes | .kp | .ki | .kd | .klpf | .iclampLo | .iclampHi => .num
  | .vel | .velPrev | .pPrev | .iPrev | .target => .num
  | .dutyA | .dutyB | .delta => .int
  | .raw | .pNew | .iNew | .dNew | .u => .num

/-- The tag of a payload (30_encoding.md R83). -/
def Payload.cellType : Payload N → CellType
  | .int _ => .int
  | .num _ => .num

/-! ### Format C -/

/-- The opcode map of format C (30_encoding.md R85); 0x3-0x7, 0xE and 0xF are reserved. -/
def opcodeInstr (op : Nat) : Option (Instr N) :=
  match op with
  | 0x0 => some .nop
  | 0x1 => some .init
  | 0x2 => some .tick
  | 0x8 => some .rdrst
  | 0x9 => some .est
  | 0xA => some .tgt
  | 0xB => some .pid
  | 0xC => some .map
  | 0xD => some .commit
  | _ => none

/-- A format C word: bits 31:4 must be zero, bits 3:0 are the opcode (30_encoding.md R81, R86). -/
def decodeWord (w : I32) : Except DecodeError (Instr N) :=
  if w.extractLsb' 4 28 ≠ 0 then .error .highBits
  else
    match opcodeInstr (w.extractLsb' 0 4).toNat with
    | some i => .ok i
    | none => .error .reservedOpcode

/-- A word on the data path of `CMD`: a host command; a micro-operation is illegal there
(30_encoding.md R86, 46_host_access_and_construction.md R163). -/
def decodeCmd (w : I32) : Except DecodeError (Instr N) :=
  match decodeWord w with
  | .ok i => if i.isMicro then .error .microOnCmd else .ok i
  | .error e => .error e

/-- An entry of the micro-program: one of the six micro-operations (30_encoding.md R87). -/
def decodeMicro (w : Byte) : Except DecodeError (Instr N) :=
  match decodeWord (w.setWidth 32) with
  | .ok i => if i.isMicro then .ok i else .error .hostCommandInMicroProgram
  | .error e => .error e

/-! ### Format B -/

/-- A bus transaction: bit 7 `we`, bit 6 zero, bits 5:0 `addr`, and a payload after a write header
only (30_encoding.md R82, R89). -/
def decodeBus (header : Byte) (payload : Option (Payload N)) : Except DecodeError (Instr N) :=
  if header.getLsbD 6 then .error .headerBit6
  else
    match header.getLsbD 7, payload with
    | false, none => .ok (.rd (header.extractLsb' 0 6))
    | false, some _ => .error .payloadOnRead
    | true, some v => .ok (.wr (header.extractLsb' 0 6) v)
    | true, none => .error .payloadMissing

/-- The decoder: what arrives, on its channel, is an operation or is rejected by name
(30_encoding.md R89). A pulse on the tick input is `TICK` (45_loop_driver.md R145). -/
def decode : Wire N → Except DecodeError (Instr N)
  | .cmd w => decodeCmd w
  | .micro w => decodeMicro w
  | .bus h p => decodeBus h p
  | .tickPulse => .ok .tick

/-! ### Format T -/

/-- A tick record as the sample it carries: `cnt_fail` is bit 0 of the flag byte, `pwm_fail` bit 1,
bits 7:2 are zero (30_encoding.md R88). -/
def decodeSample (r : TickRecord N) : Except DecodeError (TickSample N) :=
  if r.flags.extractLsb' 2 6 ≠ 0 then .error .sampleFlags
  else .ok
    { cnt := r.cnt, cntFail := r.flags.getLsbD 0, tgt := r.tgt, pwmFail := r.flags.getLsbD 1 }

/-- The tick record of a sample (30_encoding.md R88). -/
def encodeSample (p : TickSample N) : TickRecord N :=
  { cnt := p.cnt
    flags := (0#6 ++ BitVec.ofBool p.pwmFail) ++ BitVec.ofBool p.cntFail
    tgt := p.tgt }

/-! ### The encoder -/

/-- The command word of an operation of format C (30_encoding.md R85); the bus operations have
none. -/
def Instr.commandWord : Instr N → Option Byte
  | .nop => some 0x00
  | .init => some 0x01
  | .tick => some 0x02
  | .rdrst => some 0x08
  | .est => some 0x09
  | .tgt => some 0x0A
  | .pid => some 0x0B
  | .map => some 0x0C
  | .commit => some 0x0D
  | .rd _ => none
  | .wr _ _ => none

/-- The bus header laid out as we, 0, addr (30_encoding.md R82). -/
def busHeader (we : Bool) (addr : RegNum) : Byte :=
  BitVec.ofBool we ++ 0#1 ++ addr

/-- The encoder: what an operation looks like on a channel, `none` where it cannot travel there. -/
def encode (c : Channel) (i : Instr N) : Option (Wire N) :=
  match c with
  | .cmd => if i.isMicro then none else i.commandWord.map fun w => .cmd (w.setWidth 32)
  | .microProgram => if i.isMicro then i.commandWord.map fun w => .micro w else none
  | .bus =>
    match i with
    | .rd addr => some (.bus (busHeader false addr) none)
    | .wr addr v => some (.bus (busHeader true addr) (some v))
    | .nop | .init | .tick | .rdrst | .est | .tgt | .pid | .map | .commit => none
  | .tickInput =>
    match i with
    | .tick => some .tickPulse
    | .nop | .init | .rdrst | .est | .tgt | .pid | .map | .commit | .rd _ | .wr _ _ => none

/-! ### The micro-program -/

/-- The fixed table of six command words indexed by `PHASE`; no entry at 0 or 7
(30_encoding.md R87, 20_memory.md R70). -/
def microProgram (p : Phase) : Option Byte :=
  match p.toNat with
  | 1 => some 0x08
  | 2 => some 0x09
  | 3 => some 0x0A
  | 4 => some 0x0B
  | 5 => some 0x0C
  | 6 => some 0x0D
  | _ => none

/-- The `PHASE` whose micro-program entry an operation is (30_encoding.md R87). -/
def Instr.microPhase : Instr N → Option Phase
  | .rdrst => some 1
  | .est => some 2
  | .tgt => some 3
  | .pid => some 4
  | .map => some 5
  | .commit => some 6
  | .nop | .init | .tick | .rd _ | .wr _ _ => none

/-- The sequencer's fetch: the micro-operation at a `PHASE` (45_loop_driver.md R145). -/
def fetchMicro (p : Phase) : Option (Instr N) :=
  match microProgram p with
  | some w => (decode (.micro w)).toOption
  | none => none

/-! ### The host's reading of a table row -/

/-- The payload of zeros for a write of a register number: of the addressed cell's type
(30_encoding.md R83; DESIGN CHOICE, log 5, since `NUM_ENC` is open). -/
def zeroPayload (addr : RegNum) : Payload Num :=
  match Reg.ofNumber addr with
  | some r => match r.cellType with
    | .int => .int 0
    | .num => .num 0
  | none => .int 0

/-- The wire value a byte with operand words of zeros is, when no channel is given: a command word
where it is one, else a micro-program entry, else a bus header (DESIGN CHOICE, log 6: the formats
share byte values and only the channel tells them apart, R89). -/
def wireOfTableByte (b : Byte) : Wire Num :=
  match decode (.cmd (b.setWidth 32) : Wire Num) with
  | .ok _ => .cmd (b.setWidth 32)
  | .error _ =>
    match decode (.micro b : Wire Num) with
    | .ok _ => .micro b
    | .error _ =>
      if b.getLsbD 7 then .bus b (some (zeroPayload (b.extractLsb' 0 6))) else .bus b none

/-- The instruction the decoder reads from a table word of one byte (log 6). -/
def decodeTableWord (nbits w : Nat) : Option Instr :=
  if nbits = 8 ∧ w < 256 then (decode (wireOfTableByte (BitVec.ofNat 8 w))).toOption else none

end Sys2Proof
end

