-- ==== Sys2Proof/Machine/State.lean ====
section
/-! DEFINITION. The state of one block: every cell of the register space (10_state.md R21), the ports
and the external state the rules read or write (10_state.md R53, R54), the events still to come and
the outputs of the last one (00_scope.md R7). Plain data throughout. -/

namespace Sys2Proof.Machine

/-- `STATUS.STATE` (10_state.md R51). -/
inductive Lifecycle where
  | unconf
  | idle
  | running
  | fault
deriving DecidableEq, Repr

/-- The six exceptions (60_exceptions.md R180, R181). -/
inductive Exc where
  | cfgErr
  | cntFault
  | pwmFault
  | wrDenied
  | illCmd
  | illAddr
deriving DecidableEq, Repr

/-- The four sticky flags of `STATUS` (10_state.md R24, R52). -/
structure StickyFlags where
  cfgErr : Bool
  wrErr : Bool
  cmdErr : Bool
  addrErr : Bool
deriving DecidableEq, Repr

/-- `CFGDETAIL`, one bit for each validity check (10_state.md R26). -/
structure CfgDetail where
  gearBad : Bool
  resBad : Bool
  periodBad : Bool
  kBad : Bool
  pwmBad : Bool
  iclampBad : Bool
  gainBad : Bool
deriving DecidableEq, Repr

/-- The MotorConfig bank, 0x08 to 0x13 (10_state.md R27 to R36). `CTRL` is its three fields, since its
other bits hold nothing (R33). -/
structure MotorConfig (N : Type) where
  gear : N
  encRes : N
  sampleMs : I32
  pwmMin : I32
  pwmMax : I32
  reverse : Bool
  enD : Bool
  iclampEn : Bool
  kp : N
  ki : N
  kd : N
  klpf : N
  iclampLo : N
  iclampHi : N
deriving DecidableEq, Repr

/-- The ControllerState bank, 0x18 to 0x1C (10_state.md R37 to R42). -/
structure ControllerState (N : Type) where
  vel : N
  velPrev : N
  pPrev : N
  iPrev : N
  target : N
deriving DecidableEq, Repr

/-- A PWMCommand, the duties of channel A and channel B (10_state.md R43). -/
structure PwmCommand where
  a : I32
  b : I32
deriving DecidableEq, Repr

/-- The cycle latches, 0x28 to 0x2D (10_state.md R45 to R49). -/
structure Latches (N : Type) where
  delta : I32
  raw : N
  pNew : N
  iNew : N
  dNew : N
  u : N
deriving DecidableEq, Repr

/-- A bus access as the host issues it: the header, the payload after it, and the tick record the
ports present at that instant (30_encoding.md R82, R91). -/
structure BusAccess (N : Type) where
  header : Byte
  payload : Option (Payload N)
  ports : TickRecord N
deriving DecidableEq, Repr

/-- What arrives at one instant: reset, a bus access, a pulse on the tick input
(10_state.md R20, 60_exceptions.md R188). -/
structure Arrival (N : Type) where
  reset : Bool
  bus : Option (BusAccess N)
  tick : Option (TickRecord N)
deriving DecidableEq, Repr

/-- The result of a `TICK` event (60_exceptions.md R191). -/
inductive TickResult where
  | ok (dutyA dutyB : I32)
  | fault (e : Exc)
  | refused (e : Exc)
  | dropped
deriving DecidableEq, Repr

/-- The output of an event: the `rdata` of an `RD` (46_host_access_and_construction.md R160) or the
result of a `TICK` (60_exceptions.md R191). -/
inductive Output (N : Type) where
  | none
  | rdata (v : Payload N)
  | tick (r : TickResult)
deriving DecidableEq, Repr

/-- One use of a port (00_scope.md R13, 20_memory.md R72). -/
inductive PortAccess (N : Type) where
  | cntRead (c : I16)
  | cntClear
  | targetSample (t : N)
  | pwmWrite (a b : I32)
deriving DecidableEq, Repr

/-- The state of the block and of what its rules reach, over a carrier `N`. -/
structure State.Of (N : Type) where
  /-- `STATUS.STATE`, R51. -/
  lifecycle : Lifecycle
  /-- The sticky flags of `STATUS`, R24. -/
  flags : StickyFlags
  /-- `STATUS.PHASE`, the step counter, R50. -/
  phase : Phase
  /-- `CAUSE`: the exception most recently raised, none since reset, R25. -/
  cause : Option Exc
  /-- `CFGDETAIL`, R26. -/
  cfgDetail : CfgDetail
  /-- MotorConfig, R27 to R36. -/
  cfg : MotorConfig N
  /-- ControllerState, R37 to R42. -/
  ctl : ControllerState N
  /-- `DUTY_A`, `DUTY_B`, R43. -/
  duty : PwmCommand
  /-- The latches, R45 to R49. -/
  lat : Latches N
  /-- What the ports present now, R53, R54, R88; not a cell (log 12). -/
  ports : TickSample N
  /-- The duties of the external PWM peripheral: the pair it last took, any value before the first write,
  R54, U8; not a cell (log 11). -/
  pwmExt : PwmCommand
  /-- The events still to come, in the order the block takes them, R7, R66 (log 1). -/
  arrivals : List (Arrival N)
  /-- The output of the last event, R160, R191 (log 13). -/
  out : Output N
  /-- The port accesses of the last event, in order, R72 (log 13). -/
  portLog : List (PortAccess N)
  /-- The model's own: how many free values were drawn (log 16). -/
  freeCount : Nat
deriving DecidableEq, Repr

/-- The state of this block: the reference carrier (log 2). -/
abbrev State := State.Of Num

/-- What stops the machine as a fault. -/
inductive Fault where
  /-- Raised by `step` inside a cycle whose `PHASE` names no micro-program entry (0 is no such state,
  so 7): R87 has no entry there and R50 says it never holds 7. Safe (log 8). -/
  | noMicroWord
deriving DecidableEq, Repr

/-- What the machine refuses. -/
inductive Refusal where
  /-- An instruction without a meaning; no instruction of this model is. Safe. -/
  | notModelled (mnemonic : String)
  /-- Raised by `step` for bits on the bus or the tick input that are no transaction of the interface
  and cannot be issued (30_encoding.md R82, R88, R89). Safe (log 9). -/
  | notATransaction (e : DecodeError)
deriving DecidableEq, Repr

/-- The MotorConfig bank after reset, all zero (70_reset_and_hazards.md R211); `z` is `ofInt(0)`. -/
def MotorConfig.zero {N : Type} (z : N) : MotorConfig N :=
  { gear := z, encRes := z, sampleMs := 0, pwmMin := 0, pwmMax := 0
    reverse := false, enD := false, iclampEn := false
    kp := z, ki := z, kd := z, klpf := z, iclampLo := z, iclampHi := z }

/-- ControllerState all zero: after reset and after `INIT` (R211, R171). -/
def ControllerState.zero {N : Type} (z : N) : ControllerState N :=
  { vel := z, velPrev := z, pPrev := z, iPrev := z, target := z }

/-- The latches all zero: after reset and after `INIT` (R211, R171). -/
def Latches.zero {N : Type} (z : N) : Latches N :=
  { delta := 0, raw := z, pNew := z, iNew := z, dNew := z, u := z }

/-- No validity check failed. -/
def CfgDetail.zero : CfgDetail :=
  { gearBad := false, resBad := false, periodBad := false, kBad := false, pwmBad := false
    iclampBad := false, gainBad := false }

/-- The machine right after reset in any instantiation: every cell zero (70_reset_and_hazards.md R211),
`z` being `ofInt(0)`. The ports are the environment's and stand at zero until an event presents them
(DESIGN CHOICE, log 12); the PWM peripheral took nothing yet, so its duties are any value (U8, log 11);
nothing is listed to arrive (log 1). -/
def State.zeroed {N : Type} (z : N) : State.Of N :=
  { lifecycle := .unconf
    flags := { cfgErr := false, wrErr := false, cmdErr := false, addrErr := false }
    phase := 0
    cause := none
    cfgDetail := CfgDetail.zero
    cfg := MotorConfig.zero z
    ctl := ControllerState.zero z
    duty := { a := 0, b := 0 }
    lat := Latches.zero z
    ports := { cnt := 0, cntFail := false, tgt := z, pwmFail := false }
    pwmExt := { a := Config.dutyBeforeFirstWrite 0, b := Config.dutyBeforeFirstWrite 1 }
    arrivals := []
    out := .none
    portLog := []
    freeCount := 0 }

/-- The machine right after reset (70_reset_and_hazards.md R211). -/
def State.reset : State := State.zeroed 0

end Sys2Proof.Machine
end

