-- ==== Sys2Proof/Machine/Operands.lean ====
section
/-! DEFINITION. The operand forms: the reference operations of `Num` (00_scope.md R9, R10), the parameters of
this block, the words of the bit-field cells (10_state.md R24, R26, R33), and the read and the write of one
cell by its name (10_state.md R21, R22). -/

namespace Sys2Proof.Machine

variable {N : Type}

/-! ### The reference instantiation of `Num`: exact rationals (00_scope.md R9, R10) -/

/-- `ofInt(i)`. -/
def ofInt (i : Int) : Num := (i : Rat)

/-- `a +N b`. -/
def addN (a b : Num) : Num := a + b

/-- `a -N b`. -/
def subN (a b : Num) : Num := a - b

/-- `a *N b`. -/
def mulN (a b : Num) : Num := a * b

/-- `a /N b`; R10 gives no quotient by zero, so that one is a free value (log 3). -/
def divN (a b : Num) : Num := if b = 0 then Config.divByZero a else a / b

/-- `a <N b`. -/
def ltN (a b : Num) : Bool := decide (a < b)

/-- `a <=N b`. -/
def leN (a b : Num) : Bool := decide (a ≤ b)

/-- `a >=N b`. -/
def geN (a b : Num) : Bool := decide (b ≤ a)

/-- `a =N b`. -/
def eqN (a b : Num) : Bool := decide (a = b)

/-- `truncI(v)`: the greatest integer not above a `v` that is not negative, the least integer not
below a negative one. -/
def truncI (v : Num) : Int := if geN v 0 then Rat.floor v else Rat.ceil v

/-- `GAIN_VALID(kp, ki, kd)`: the reset gains, all zero, are legal (70_reset_and_hazards.md R211; DEDUCED,
log 22); of all others the spec leaves it open (log 4). -/
def gainValid (kp ki kd : Num) : Bool :=
  (eqN kp 0 && eqN ki 0 && eqN kd 0) || Config.gainRange kp ki kd

/-- The parameters of this block: the reference instantiation of `Num`, and any gain range. -/
def params : Params Num :=
  { ofInt := ofInt, add := addN, sub := subN, mul := mulN, div := divN
    lt := ltN, le := leN, ge := geN, eq := eqN, trunc := truncI
    gainValid := gainValid }

/-! ### What R10 makes of the operations, one at a time and never reordered -/

/-- `negN(a)` is `ofInt(0) -N a`. -/
def negN (P : Params N) (a : N) : N := P.sub (P.ofInt 0) a

/-- `clampN(v, lo, hi)`; R10 asks for ordered bounds, and its formula is followed without them too
(DEDUCED, log 18). -/
def clampN (P : Params N) (v lo hi : N) : N :=
  if P.lt v lo then lo else if P.lt hi v then hi else v

/-- The `Num` of an `Int32` cell's signed value. -/
def numOfI32 (P : Params N) (i : I32) : N := P.ofInt i.toInt

/-! ### The words of the bit-field cells -/

/-- A Boolean field at a bit position. -/
def bitAt (pos : Nat) (b : Bool) : Nat := b.toNat * 2 ^ pos

/-- The code of a lifecycle state (10_state.md R51). -/
def Lifecycle.code : Lifecycle → Nat
  | .unconf => 0
  | .idle => 1
  | .running => 2
  | .fault => 3

/-- `STATUS` as it reads: `STATE` in 1:0, the flags in 4 to 7, `PHASE` in 10:8 (10_state.md R24). -/
def statusWord (s : State.Of N) : I32 :=
  BitVec.ofNat 32
    (s.lifecycle.code + bitAt 4 s.flags.cfgErr + bitAt 5 s.flags.wrErr + bitAt 6 s.flags.cmdErr
      + bitAt 7 s.flags.addrErr + s.phase.toNat * 2 ^ 8)

/-- `CFGDETAIL` as it reads (10_state.md R26). -/
def CfgDetail.word (d : CfgDetail) : I32 :=
  BitVec.ofNat 32
    (bitAt 0 d.gearBad + bitAt 1 d.resBad + bitAt 2 d.periodBad + bitAt 3 d.kBad
      + bitAt 4 d.pwmBad + bitAt 5 d.iclampBad + bitAt 6 d.gainBad)

/-- `CTRL` as it reads: `REVERSE`, `EN_D`, `ICLAMP_EN` in bits 0 to 2 (10_state.md R33). -/
def MotorConfig.ctrlWord (c : MotorConfig N) : I32 :=
  BitVec.ofNat 32 (bitAt 0 c.reverse + bitAt 1 c.enD + bitAt 2 c.iclampEn)

/-- The code of an exception (60_exceptions.md R181). -/
def Exc.code : Exc → I32
  | .cfgErr => 1
  | .cntFault => 2
  | .pwmFault => 3
  | .wrDenied => 4
  | .illCmd => 5
  | .illAddr => 6

/-- `CAUSE` as it reads: the code, 0 for none (10_state.md R25). -/
def causeWord (c : Option Exc) : I32 :=
  match c with
  | none => 0
  | some e => e.code

/-! ### One cell by its name -/

/-- A read of a cell (46_host_access_and_construction.md R160). `CMD` has no storage and reads 0
(10_state.md R23). -/
def readCell (r : Reg) (s : State.Of N) : Payload N :=
  match r with
  | .cmd => .int 0
  | .status => .int (statusWord s)
  | .cause => .int (causeWord s.cause)
  | .cfgDetail => .int s.cfgDetail.word
  | .gear => .num s.cfg.gear
  | .encRes => .num s.cfg.encRes
  | .sampleMs => .int s.cfg.sampleMs
  | .pwmMin => .int s.cfg.pwmMin
  | .pwmMax => .int s.cfg.pwmMax
  | .ctrl => .int s.cfg.ctrlWord
  | .kp => .num s.cfg.kp
  | .ki => .num s.cfg.ki
  | .kd => .num s.cfg.kd
  | .klpf => .num s.cfg.klpf
  | .iclampLo => .num s.cfg.iclampLo
  | .iclampHi => .num s.cfg.iclampHi
  | .vel => .num s.ctl.vel
  | .velPrev => .num s.ctl.velPrev
  | .pPrev => .num s.ctl.pPrev
  | .iPrev => .num s.ctl.iPrev
  | .target => .num s.ctl.target
  | .dutyA => .int s.duty.a
  | .dutyB => .int s.duty.b
  | .delta => .int s.lat.delta
  | .raw => .num s.lat.raw
  | .pNew => .num s.lat.pNew
  | .iNew => .num s.lat.iNew
  | .dNew => .num s.lat.dNew
  | .u => .num s.lat.u

/-- The store of a payload of the right type into a MotorConfig cell
(46_host_access_and_construction.md R161); `CTRL` keeps bits 2:0 and drops the others
(10_state.md R33). A cell outside the bank, or a payload of the wrong type, stores nothing: `WR`
refuses both before it stores. -/
def storeConfig (r : Reg) (v : Payload N) (c : MotorConfig N) : MotorConfig N :=
  match r, v with
  | .gear, .num x => { c with gear := x }
  | .encRes, .num x => { c with encRes := x }
  | .sampleMs, .int i => { c with sampleMs := i }
  | .pwmMin, .int i => { c with pwmMin := i }
  | .pwmMax, .int i => { c with pwmMax := i }
  | .ctrl, .int i =>
    { c with reverse := i.getLsbD 0, enD := i.getLsbD 1, iclampEn := i.getLsbD 2 }
  | .kp, .num x => { c with kp := x }
  | .ki, .num x => { c with ki := x }
  | .kd, .num x => { c with kd := x }
  | .klpf, .num x => { c with klpf := x }
  | .iclampLo, .num x => { c with iclampLo := x }
  | .iclampHi, .num x => { c with iclampHi := x }
  | _, _ => c

end Sys2Proof.Machine
end

