-- ==== Sys2Proof/Machine/Flags.lean ====
section
/-! DEFINITION. The sticky error flags and the validity mask (10_state.md R24, R26, R52;
60_exceptions.md R181; 46_host_access_and_construction.md R170). The block has no condition codes. -/

namespace Sys2Proof.Machine

variable {N : Type}

/-- The fatal class of exceptions; the others are recorded (60_exceptions.md R180). -/
def Exc.fatal : Exc → Bool
  | .cntFault | .pwmFault => true
  | .cfgErr | .wrDenied | .illCmd | .illAddr => false

/-- The flags with the flag of an exception set; a fatal one has none (60_exceptions.md R181). -/
def StickyFlags.set (f : StickyFlags) : Exc → StickyFlags
  | .cfgErr => { f with cfgErr := true }
  | .wrDenied => { f with wrErr := true }
  | .illCmd => { f with cmdErr := true }
  | .illAddr => { f with addrErr := true }
  | .cntFault => f
  | .pwmFault => f

/-- Whether the flag of an exception is set; a fatal one has none. -/
def StickyFlags.has (f : StickyFlags) : Exc → Bool
  | .cfgErr => f.cfgErr
  | .wrDenied => f.wrErr
  | .illCmd => f.cmdErr
  | .illAddr => f.addrErr
  | .cntFault => false
  | .pwmFault => false

/-- The seven validity checks, all evaluated (46_host_access_and_construction.md R170). -/
def validityMask (P : Params N) (c : MotorConfig N) : CfgDetail :=
  { gearBad := !P.lt (P.ofInt 0) c.gear
    resBad := !P.lt (P.ofInt 0) c.encRes
    periodBad := !decide (0 < c.sampleMs.toInt)
    kBad := !(P.le (P.ofInt 0) c.klpf && P.le c.klpf (P.ofInt 1))
    pwmBad := decide (c.pwmMin ≠ 0) || decide (c.pwmMax.toInt < 0)
    iclampBad := c.iclampEn && !P.le c.iclampLo c.iclampHi
    gainBad := !P.gainValid c.kp c.ki c.kd }

/-- Whether some check failed: the mask is not zero. -/
def CfgDetail.any (d : CfgDetail) : Bool :=
  d.gearBad || d.resBad || d.periodBad || d.kBad || d.pwmBad || d.iclampBad || d.gainBad

end Sys2Proof.Machine
end

