-- ==== Sys2Proof/Machine/Ops.lean ====
section
/-! DEFINITION. The shared operations: taking an exception, the port primitives, reset, and the start of
an event (60_exceptions.md R190, 00_scope.md R13, 70_reset_and_hazards.md R210). There is no return
from an exception, because none transfers control (60_exceptions.md R194). -/

namespace Sys2Proof.Machine

variable {N : Type}

/-- The outcome of an instruction. -/
abbrev Result (N : Type := Num) := Host.Outcome (State.Of N) Fault Refusal

/-- `PHASE <- n` (00_scope.md R13). -/
def State.Of.setPhase (s : State.Of N) (n : Phase) : State.Of N := { s with phase := n }

/-- The entry actions of `raise E`: `CAUSE` takes the code, then a recorded exception sets its flag and
a fatal one puts the block in FAULT; nothing else changes (60_exceptions.md R190). -/
def raise (e : Exc) (s : State.Of N) : State.Of N :=
  if e.fatal then { s with cause := some e, lifecycle := .fault }
  else { s with cause := some e, flags := s.flags.set e }

/-- A port access in the output of the event. -/
def State.Of.logPort (s : State.Of N) (a : PortAccess N) : State.Of N := { s with portLog := s.portLog ++ [a] }

/-- `CntRead()`: the count the counter holds now; it changes nothing (41_pulse_counter.md R100). -/
def cntRead (s : State.Of N) : I16 × State.Of N := (s.ports.cnt, s.logPort (.cntRead s.ports.cnt))

/-- `CntClear()`: the external count becomes 0 (41_pulse_counter.md R100). -/
def cntClear (s : State.Of N) : State.Of N :=
  { s with ports := { s.ports with cnt := 0 } }.logPort .cntClear

/-- `TargetSample()`: the target the source presents (00_scope.md R13). -/
def targetSample (s : State.Of N) : N × State.Of N := (s.ports.tgt, s.logPort (.targetSample s.ports.tgt))

/-- `PwmWrite(a, b)`: the peripheral takes both duties as one pair (44_pwm_mapper.md R140). -/
def pwmWrite (a b : I32) (s : State.Of N) : State.Of N :=
  { s with pwmExt := { a := a, b := b } }.logPort (.pwmWrite a b)

/-- A write that failed: what the peripheral then holds is any value, one a channel
(93_implementation_defined.md U3, log 11). -/
def pwmWriteFailed (s : State.Of N) : State.Of N :=
  { s with
    pwmExt :=
      { a := Config.dutyAfterFailedWrite s.freeCount
        b := Config.dutyAfterFailedWrite (s.freeCount + 1) }
    freeCount := s.freeCount + 2 }

/-- The RESET event: every cell takes its reset value; the external count, the external duties, the
target source and the events to come are not the block's (70_reset_and_hazards.md R210 to R212). -/
def resetBlock (P : Params N) (s : State.Of N) : State.Of N :=
  { State.zeroed (P.ofInt 0) with
    ports := s.ports
    pwmExt := s.pwmExt
    arrivals := s.arrivals
    freeCount := s.freeCount }

/-- The start of an event: the ports present their values and the outputs are those of this event
only (30_encoding.md R88, log 13). -/
def startEvent (p : TickSample N) (s : State.Of N) : State.Of N :=
  { s with ports := p, out := .none, portLog := [] }

/-- A `TICK` that FAULT drops: it changes no cell, its result is `dropped`
(45_loop_driver.md R151, 60_exceptions.md R191). -/
def dropTick (s : State.Of N) : State.Of N := { s with out := .tick .dropped }

end Sys2Proof.Machine
end

