-- ==== Sys2Proof/Machine/PulseCounter.lean ====
section
/-! DEFINITION. The pulse counter adapter: RDRST (41_pulse_counter.md). -/

namespace Sys2Proof.Machine

variable {N : Type}

/-- `RDRST` (R101): a reported failure raises CntFault before the port is touched (R104); otherwise
the count is read, cleared, and kept sign-extended in `DELTA` (R102). -/
def rdrst (s : State.Of N) : State.Of N :=
  if s.ports.cntFail then raise .cntFault s
  else
    let (c, s1) := cntRead s
    let s2 := cntClear s1
    { s2 with lat := { s2.lat with delta := c.signExtend 32 } }.setPhase 2

/-- The meaning of RDRST. -/
def execRdrst (s : State) : Result := .next (rdrst s)

end Sys2Proof.Machine
end

