-- ==== Sys2Proof/Machine/PwmMapper.lean ====
section
/-! DEFINITION. The PWM bidirectional output mapper: MAP (44_pwm_mapper.md). -/

namespace Sys2Proof.Machine

variable {N : Type}

/-- The duty of a magnitude: clamped to [0, `PWM_MAX`], then truncated (R138, R139); an integer
outside Int32 is kept modulo 2^32 (DESIGN CHOICE, log 2). -/
def dutyOf (P : Params N) (pwmMax : I32) (magnitude : N) : I32 :=
  BitVec.ofInt 32 (P.trunc (clampN P magnitude (P.ofInt 0) (numOfI32 P pwmMax)))

/-- The PWMCommand of a control output: a non-negative one drives channel A (R136), a negative one
channel B (R137), and the idle channel has `PWM_MIN`. -/
def pwmCommand (P : Params N) (c : MotorConfig N) (u : N) : PwmCommand :=
  if P.ge u (P.ofInt 0) then { a := dutyOf P c.pwmMax u, b := c.pwmMin }
  else { a := c.pwmMin, b := dutyOf P c.pwmMax (negN P u) }

/-- `MAP` (R135): the two duties are computed, then a reported failure raises PwmFault before they are
handed over (R143), else they go to the port and into `DUTY_A`, `DUTY_B` (R140). -/
def map (P : Params N) (s : State.Of N) : State.Of N :=
  let d := pwmCommand P s.cfg s.lat.u
  if s.ports.pwmFail then raise .pwmFault (pwmWriteFailed s)
  else
    let s1 := pwmWrite d.a d.b s
    { s1 with duty := d }.setPhase 6

/-- The meaning of MAP. -/
def execMap (s : State) : Result := .next (map params s)

end Sys2Proof.Machine
end

