-- ==== Sys2Proof/Machine/TargetPid.lean ====
section
/-! DEFINITION. Target intake and the PID controller: TGT, PID (43_target_and_pid.md). -/

namespace Sys2Proof.Machine

variable {N : Type}

/-- `TGT` (R120): the sampled target, negated when `CTRL.REVERSE` is set (R121). -/
def tgt (P : Params N) (s : State.Of N) : State.Of N :=
  let (t, s1) := targetSample s
  { s1 with ctl := { s1.ctl with target := if s1.cfg.reverse then negN P t else t } }.setPhase 4

/-- The meaning of TGT. -/
def execTgt (s : State) : Result := .next (tgt params s)

/-- The updated integral: the running sum (R124), limited when the clamp is enabled (R125). -/
def integral (P : Params N) (c : MotorConfig N) (iPrev p : N) : N :=
  let i0 := P.add iPrev p
  if c.iclampEn then clampN P i0 c.iclampLo c.iclampHi else i0

/-- The control output, summed left to right; `KD` is read only when `CTRL.EN_D` is set (R127). -/
def controlOutput (P : Params N) (c : MotorConfig N) (p i d : N) : N :=
  let u0 := P.add (P.mul c.kp p) (P.mul c.ki i)
  if c.enD then P.add u0 (P.mul c.kd d) else u0

/-- `PID` (R122): error, integral, derivative and output into the latches; `P_PREV` and `I_PREV` are
read, not written (R128). -/
def pid (P : Params N) (s : State.Of N) : State.Of N :=
  let p := P.sub s.ctl.target s.ctl.vel
  let i := integral P s.cfg s.ctl.iPrev p
  let d := P.sub p s.ctl.pPrev
  let u := controlOutput P s.cfg p i d
  { s with lat := { s.lat with pNew := p, iNew := i, dNew := d, u := u } }.setPhase 5

/-- The meaning of PID. -/
def execPid (s : State) : Result := .next (pid params s)

end Sys2Proof.Machine
end

