-- ==== Sys2Proof/Machine/VelocityEstimator.lean ====
section
/-! DEFINITION. The velocity estimator: EST (42_velocity_estimator.md). -/

namespace Sys2Proof.Machine

variable {N : Type}

/-- The raw speed of a pulse delta, in the order of R110: (delta / (gear * res)) * (60000 / ms). -/
def rawSpeed (P : Params N) (c : MotorConfig N) (delta : I32) : N :=
  let den := P.mul c.gear c.encRes
  let revs := P.div (numOfI32 P delta) den
  let rate := P.div (P.ofInt Config.rateMsPerMin) (numOfI32 P c.sampleMs)
  P.mul revs rate

/-- The single-pole filter, two products and one sum (R112). -/
def filtered (P : Params N) (k prev raw : N) : N :=
  let keep := P.mul k prev
  let pass := P.mul (P.sub (P.ofInt 1) k) raw
  P.add keep pass

/-- `EST` (R110): `RAW` and `VEL`; `VEL_PREV` is read, not written (R116). -/
def est (P : Params N) (s : State.Of N) : State.Of N :=
  let raw := rawSpeed P s.cfg s.lat.delta
  { s with
    lat := { s.lat with raw := raw }
    ctl := { s.ctl with vel := filtered P s.cfg.klpf s.ctl.velPrev raw } }.setPhase 3

/-- The meaning of EST. -/
def execEst (s : State) : Result := .next (est params s)

end Sys2Proof.Machine
end

