-- ==== Sys2Proof/Machine/LoopDriver.lean ====
section
/-! DEFINITION. The control loop driver: COMMIT, the sequencing of one cycle, TICK
(45_loop_driver.md). -/

namespace Sys2Proof.Machine

variable {N : Type}

/-- `COMMIT` (R148): the filter, error and integral memories take this cycle's values. -/
def commit (s : State.Of N) : State.Of N :=
  { s with
    ctl := { s.ctl with velPrev := s.ctl.vel, pPrev := s.lat.pNew, iPrev := s.lat.iNew } }.setPhase 0

/-- The meaning of COMMIT. -/
def execCommit (s : State) : Result := .next (commit s)

/-- The micro-operation of the micro-program at work; the other operations are no part of it
(30_encoding.md R87). -/
def microOp (P : Params N) (i : Instr N) (s : State.Of N) : State.Of N :=
  match i with
  | .rdrst => rdrst s
  | .est => est P s
  | .tgt => tgt P s
  | .pid => pid P s
  | .map => map P s
  | .commit => commit s
  | .nop | .init | .tick | .rd _ | .wr _ _ => s

/-- The loop of R145: while `PHASE` is not 0, the micro-program's operation at `PHASE`; an exception
leaves the loop (R153). Six steps end every cycle (R146), which is the bound `TICK` gives. -/
def cycleLoop (P : Params N) : Nat → State.Of N → State.Of N
  | 0, s => s
  | n + 1, s =>
    if s.phase = 0 ∨ s.lifecycle = .fault then s
    else
      match fetchMicro s.phase with
      | some i => cycleLoop P n (microOp P i s)
      | none => s

/-- The result of a cycle: its duties, or the exception that cut it short (60_exceptions.md R191). -/
def cycleResult (s : State.Of N) : TickResult :=
  match s.lifecycle, s.cause with
  | .fault, some e => .fault e
  | _, _ => .ok s.duty.a s.duty.b

/-- One accepted cycle: RUNNING, `PHASE` 1, the six steps (R145, R149). -/
def runCycle (P : Params N) (s : State.Of N) : State.Of N :=
  let t := cycleLoop P 6 { s with lifecycle := .running, phase := 1 }
  { t with out := .tick (cycleResult t) }

/-- `TICK` (R145): one cycle in IDLE or RUNNING, IllCmd in UNCONF, dropped in FAULT (R151). -/
def tick (P : Params N) (s : State.Of N) : State.Of N :=
  match s.lifecycle with
  | .unconf => { raise .illCmd s with out := .tick (.refused .illCmd) }
  | .fault => dropTick s
  | .idle | .running => runCycle P s

/-- The meaning of TICK. -/
def execTick (s : State) : Result := .next (tick params s)

end Sys2Proof.Machine
end

