-- ==== Sys2Proof/Machine/HostAccess.lean ====
section
/-! DEFINITION. Host access and construction: NOP, INIT, RD, WR
(46_host_access_and_construction.md). -/

namespace Sys2Proof.Machine

variable {N : Type}

/-- `NOP` (R164): nothing. -/
def nop (s : State.Of N) : State.Of N := s

/-- The meaning of NOP. -/
def execNop (s : State) : Result := .next (nop s)

/-- A configuration that passed: ControllerState and the latches are zeroed and the block is IDLE
(R165, R171). -/
def construct (P : Params N) (s : State.Of N) : State.Of N :=
  { s with
    ctl := ControllerState.zero (P.ofInt 0), lat := Latches.zero (P.ofInt 0), lifecycle := .idle }

/-- `INIT` (R165): in UNCONF the mask goes to `CFGDETAIL` and then either CfgErr is raised or the
controller is constructed; in IDLE and RUNNING it is IllCmd (R172); in FAULT it is dropped (R162,
log 15). -/
def init (P : Params N) (s : State.Of N) : State.Of N :=
  match s.lifecycle with
  | .fault => s
  | .idle | .running => raise .illCmd s
  | .unconf =>
    let s1 := { s with cfgDetail := validityMask P s.cfg }
    if s1.cfgDetail.any then raise .cfgErr s1 else construct P s1

/-- The meaning of INIT. -/
def execInit (s : State) : Result := .next (init params s)

/-- A write to `CMD` (R163): the command at once, or IllCmd for a word that is no host command. -/
def executeCommand (P : Params N) (w : I32) (s : State.Of N) : State.Of N :=
  match decode (.cmd w : Wire N) with
  | .ok .nop => nop s
  | .ok .init => init P s
  | .ok .tick => tick P s
  | _ => raise .illCmd s

/-- `RD` (R160): the whole cell; an unassigned number returns `int 0` and raises IllAddr, except in
FAULT, where nothing raises. -/
def rd (addr : RegNum) (s : State.Of N) : State.Of N :=
  match Reg.ofNumber addr with
  | some r => { s with out := .rdata (readCell r s) }
  | none =>
    let s1 := { s with out := .rdata (.int 0) }
    if s.lifecycle = .fault then s1 else raise .illAddr s1

/-- The meaning of RD. -/
def execRd (addr : RegNum) (s : State) : Result := .next (rd addr s)

/-- A write that FAULT drops (R162); the software delivery of a `TICK` is the same event as a pulse on
the tick input (45_loop_driver.md R145), so it too reports `dropped` (log 14). -/
def dropWrite (addr : RegNum) (wdata : Payload N) (s : State.Of N) : State.Of N :=
  match wdata with
  | .int w => if Reg.ofNumber addr = some .cmd ∧ w = 2 then dropTick s else s
  | .num _ => s

/-- A write outside FAULT (R161), the checks in the order written (60_exceptions.md R189): unassigned
number; for `CMD` the payload type and then the command; for the other cells read-only, lifecycle
state, payload type. -/
def writeLive (P : Params N) (addr : RegNum) (wdata : Payload N) (s : State.Of N) : State.Of N :=
  match Reg.ofNumber addr with
  | none => raise .illAddr s
  | some r =>
    if r = .cmd then
      match wdata with
      | .int w => executeCommand P w s
      | .num _ => raise .wrDenied s
    else if r.bank ≠ .motorConfig then raise .wrDenied s
    else if s.lifecycle ≠ .unconf then raise .wrDenied s
    else if wdata.cellType ≠ r.cellType then raise .wrDenied s
    else { s with cfg := storeConfig r wdata s.cfg }

/-- `WR` (R161): dropped in FAULT (R162), else the checks and the write. -/
def wr (P : Params N) (addr : RegNum) (wdata : Payload N) (s : State.Of N) : State.Of N :=
  if s.lifecycle = .fault then dropWrite addr wdata s else writeLive P addr wdata s

/-- The meaning of WR. -/
def execWr (addr : RegNum) (wdata : Payload Num) (s : State) : Result := .next (wr params addr wdata s)

/-- The state after an operation in any instantiation of the parameters (10_state.md R55); `exec` is the
case `params`. -/
def effect (P : Params N) (i : Instr N) (s : State.Of N) : State.Of N :=
  match i with
  | .nop => nop s
  | .init => init P s
  | .tick => tick P s
  | .rdrst => rdrst s
  | .est => est P s
  | .tgt => tgt P s
  | .pid => pid P s
  | .map => map P s
  | .commit => commit s
  | .rd addr => rd addr s
  | .wr addr wdata => wr P addr wdata s

end Sys2Proof.Machine
end

