-- ==== Sys2Proof/Machine/Dispatch.lean ====
section
/-! DEFINITION. Every operation of the table and its meaning. -/

namespace Sys2Proof.Machine

def exec (i : Instr) (s : State) : Host.Outcome State Fault Refusal :=
  match i with
  | .nop => Sys2Proof.Machine.execNop s
  | .init => Sys2Proof.Machine.execInit s
  | .tick => Sys2Proof.Machine.execTick s
  | .rdrst => Sys2Proof.Machine.execRdrst s
  | .est => Sys2Proof.Machine.execEst s
  | .tgt => Sys2Proof.Machine.execTgt s
  | .pid => Sys2Proof.Machine.execPid s
  | .map => Sys2Proof.Machine.execMap s
  | .commit => Sys2Proof.Machine.execCommit s
  | .rd addr => Sys2Proof.Machine.execRd addr s
  | .wr addr wdata => Sys2Proof.Machine.execWr addr wdata s

end Sys2Proof.Machine
end

