-- ==== Sys2Proof/Machine/Fetch.lean ====
section
/-! DEFINITION. What the machine does next: the micro-operation of a cycle under way, or the next event
of the arrivals (00_scope.md R7, 20_memory.md R66, 45_loop_driver.md R145, R150). -/

namespace Sys2Proof.Machine

/-- What `step` has to do, with the state it does it in. -/
inductive Fetched (N : Type) where
  /-- Nothing arrives: nothing executes (70_reset_and_hazards.md R211). -/
  | quiet (s : State.Of N)
  /-- The RESET event. -/
  | reset (s : State.Of N)
  /-- An operation to run. -/
  | run (i : Instr N) (s : State.Of N)
  /-- A cycle under way at a `PHASE` with no micro-program entry. -/
  | noMicroWord
  /-- Bits that are no transaction of the interface. -/
  | unissuable (e : DecodeError)
deriving DecidableEq, Repr

/-- One event taken from the arrivals. -/
inductive Event (N : Type) where
  | quiet
  | reset
  | bus (b : BusAccess N)
  | tick (r : TickRecord N)
deriving DecidableEq, Repr

variable {N : Type}

/-- A cycle is under way: the loop of R145 has been entered and not left. A whole `TICK` is one
transition, so no run from reset shows such a state (log 7). -/
def State.Of.midCycle (s : State.Of N) : Bool := s.lifecycle = .running && s.phase ≠ 0

/-- The reset line is up in the next arrival. RESET may arrive at any time, also inside a cycle, and has
priority over everything (70_reset_and_hazards.md R210). -/
def State.Of.resetPending (s : State.Of N) : Bool :=
  match s.arrivals with
  | a :: _ => a.reset
  | [] => false

/-- The next event and the state with that event taken out. Reset first, and what arrives with it is
lost; of a tick and a bus access that arrive together a free value says which is first, and the other
stays (20_memory.md R66, 60_exceptions.md R188, log 10). -/
def takeEvent (s : State.Of N) : Option (Event N × State.Of N) :=
  match s.arrivals with
  | [] => none
  | a :: rest =>
    if a.reset then some (.reset, { s with arrivals := rest })
    else
      match a.bus, a.tick with
      | none, none => some (.quiet, { s with arrivals := rest })
      | some b, none => some (.bus b, { s with arrivals := rest })
      | none, some r => some (.tick r, { s with arrivals := rest })
      | some b, some r =>
        if Config.tickFirst s.freeCount then
          some (.tick r,
            { s with arrivals := { a with tick := none } :: rest, freeCount := s.freeCount + 1 })
        else
          some (.bus b,
            { s with arrivals := { a with bus := none } :: rest, freeCount := s.freeCount + 1 })

/-- A word on a channel, decoded and started with what the ports present (30_encoding.md R88, R89). -/
def fetchWire (w : Wire N) (ports : TickRecord N) (s : State.Of N) : Fetched N :=
  match decodeSample ports with
  | .error e => .unissuable e
  | .ok p =>
    match decode w with
    | .error e => .unissuable e
    | .ok i => .run i (startEvent p s)

/-- What the machine does next. -/
def fetchNext (s : State.Of N) : Fetched N :=
  if s.midCycle && !s.resetPending then
    match fetchMicro s.phase with
    | some i => .run i s
    | none => .noMicroWord
  else
    match takeEvent s with
    | none => .quiet s
    | some (.quiet, s1) => .quiet s1
    | some (.reset, s1) => .reset s1
    | some (.bus b, s1) => fetchWire (.bus b.header b.payload) b.ports s1
    | some (.tick r, s1) => fetchWire .tickPulse r s1

/-- A wire value placed so that it is fetched next: a micro-program entry by its `PHASE` inside a
cycle (with a quiet arrival before one that would reset it), a command word as the bus write to `CMD`
that carries it, a bus word and a tick pulse as the next arrival. The ports go on presenting what they
present. -/
def placeWire (w : Wire Num) (s : State) : State :=
  let calm : State := { s with phase := if s.midCycle then 0 else s.phase }
  let arrive (a : Arrival Num) : State := { calm with arrivals := a :: s.arrivals }
  match w with
  | .micro b =>
    match decode (.micro b : Wire Num) with
    | .ok i =>
      { s with
        lifecycle := .running
        phase := i.microPhase.getD 0
        arrivals :=
          if s.resetPending then { reset := false, bus := none, tick := none } :: s.arrivals
          else s.arrivals }
    | .error _ => s
  | .cmd v =>
    arrive
      { reset := false
        bus := some
          { header := busHeader true Reg.cmd.number
            payload := some (.int v)
            ports := encodeSample s.ports }
        tick := none }
  | .bus h p =>
    arrive
      { reset := false
        bus := some { header := h, payload := p, ports := encodeSample s.ports }
        tick := none }
  | .tickPulse => arrive { reset := false, bus := none, tick := some (encodeSample s.ports) }

/-- The wire value of a table word; `TICK` goes to its own input, so that it is the event itself. -/
def tableWire (w : Nat) : Wire Num :=
  match decodeTableWord 8 w with
  | some .tick => .tickPulse
  | _ => wireOfTableByte (BitVec.ofNat 8 w)

end Sys2Proof.Machine
end

