-- ==== Sys2Proof/Machine/Step.lean ====
section
/-! DEFINITION. One step of the machine: one event of the transaction level (00_scope.md R7), and where
the host's table word is placed. -/

namespace Sys2Proof.Machine

/-- One step. -/
def step (s : State) : Host.Outcome State Fault Refusal :=
  match fetchNext s with
  | .quiet s1 => .next s1
  | .reset s1 => .next (resetBlock params s1)
  | .run i s1 => exec i s1
  | .noMicroWord => .fault .noMicroWord
  | .unissuable e => .refused (.notATransaction e)

/-- One step in any instantiation of the parameters (10_state.md R55); `step` is the case `params`. -/
def stepWith {N : Type} (P : Params N) (s : State.Of N) : Host.Outcome (State.Of N) Fault Refusal :=
  match fetchNext s with
  | .quiet s1 => .next s1
  | .reset s1 => .next (resetBlock P s1)
  | .run i s1 => .next (effect P i s1)
  | .noMicroWord => .fault .noMicroWord
  | .unissuable e => .refused (.notATransaction e)

/-- The state in which the very next step runs the instruction of a table word (log 1, log 6). -/
def State.withFetchWord (s : State) (_nbits w : Nat) : State := placeWire (tableWire w) s

end Sys2Proof.Machine
end

