-- ==== Sys2Proof/Safety.lean ====
section
/-! DEFINITION. The words the claims use: the invariant of the block between events, what a write may
and may not touch, and runs of whole cycles (10_state.md R44, R50; 45_loop_driver.md R149). -/

namespace Sys2Proof

/-- A sample with no fault reported (30_encoding.md R88). -/
def TickSample.clean {N : Type} (p : TickSample N) : Bool := !p.cntFail && !p.pwmFail

/-- The same sample with the target negated. -/
def TickSample.negTarget (p : TickSample Num) : TickSample Num :=
  { p with tgt := Machine.negN Machine.params p.tgt }

end Sys2Proof

namespace Sys2Proof.Machine

/-- What holds of the block between events in any instantiation of the parameters (10_state.md R55): it
rests on no law of `Num`. -/
structure ControlInv {N : Type} (P : Params N) (s : State.Of N) : Prop where
  /-- Outside FAULT no cycle is in progress (10_state.md R50). -/
  phaseOutside : s.lifecycle ≠ .fault → s.phase = 0
  /-- In FAULT `PHASE` is the step that faulted and `CAUSE` its exception (60_exceptions.md R192). -/
  phaseInFault : s.lifecycle = .fault →
    (s.phase = 1 ∧ s.cause = some .cntFault) ∨ (s.phase = 5 ∧ s.cause = some .pwmFault)
  /-- A recorded exception in `CAUSE` has its sticky flag set (60_exceptions.md R190). -/
  causeFlagged : ∀ e, s.cause = some e → e.fatal = false → s.flags.has e = true
  /-- `CAUSE` holds a fatal code only in FAULT (10_state.md R25). -/
  fatalOnlyInFault : ∀ e, s.cause = some e → e.fatal = true → s.lifecycle = .fault
  /-- Past UNCONF the configuration passed every check (46_host_access_and_construction.md R165). -/
  configured : s.lifecycle ≠ .unconf → (validityMask P s.cfg).any = false
  /-- Never both channels (10_state.md R44). -/
  exclusive : s.duty.a = 0 ∨ s.duty.b = 0
  /-- `DELTA` is in the range of the counter (10_state.md R45). -/
  deltaRange : -32768 ≤ s.lat.delta.toInt ∧ s.lat.delta.toInt ≤ 32767
  /-- Outside FAULT the last cycle is committed (10_state.md R47, 45_loop_driver.md R148). -/
  committed : s.lifecycle ≠ .fault →
    s.ctl.velPrev = s.ctl.vel ∧ s.ctl.pPrev = s.lat.pNew ∧ s.ctl.iPrev = s.lat.iNew
  /-- Before the first tick every cell of 0x18 to 0x2D is 0
  (46_host_access_and_construction.md R171). -/
  unstarted : s.lifecycle = .unconf ∨ s.lifecycle = .idle →
    s.ctl = ControllerState.zero (P.ofInt 0) ∧ s.lat = Latches.zero (P.ofInt 0) ∧
      s.duty = { a := 0, b := 0 }

/-- What holds of this block between events, in every run from reset: what holds in any instantiation,
and the ranges of the duties, which rest on the order of `Num`. -/
structure BlockInv (s : State) : Prop extends ControlInv params s where
  /-- The duty of channel A is in [0, `PWM_MAX`], or 0 (10_state.md R44). -/
  dutyARange : s.duty.a = 0 ∨ (0 ≤ s.duty.a.toInt ∧ s.duty.a.toInt ≤ s.cfg.pwmMax.toInt)
  /-- The duty of channel B is in [0, `PWM_MAX`], or 0 (10_state.md R44). -/
  dutyBRange : s.duty.b = 0 ∨ (0 ≤ s.duty.b.toInt ∧ s.duty.b.toInt ≤ s.cfg.pwmMax.toInt)

/-- The lifecycle states in which a `TICK` runs a cycle (45_loop_driver.md R145). -/
def State.Of.accepts {N : Type} (s : State.Of N) : Bool := s.lifecycle = .idle || s.lifecycle = .running

/-- Where the table puts a micro-operation: its entry of the micro-program, and no place on `CMD`
(30_encoding.md R85, R87). -/
def isMicroEntry (i : Instr) (p : Phase) (w : Byte) : Prop :=
  microProgram p = some w ∧ decode (.micro w) = .ok i ∧
  decode (.cmd (w.setWidth 32) : Wire Num) = .error .microOnCmd

/-- The event is `INIT`, as a command or as the bus write that carries it (30_encoding.md R91). -/
def isInitEvent {N : Type} (i : Instr N) : Bool :=
  match i with
  | .init => true
  | .wr addr (.int w) => addr = 0 && w = 1
  | .wr _ (.num _) => false
  | .nop | .tick | .rdrst | .est | .tgt | .pid | .map | .commit | .rd _ => false

/-- The event is `TICK`, as a pulse or as the bus write that carries it (45_loop_driver.md R145). -/
def isTickEvent {N : Type} (i : Instr N) : Bool :=
  match i with
  | .tick => true
  | .wr addr (.int w) => addr = 0 && w = 2
  | .wr _ (.num _) => false
  | .nop | .init | .rdrst | .est | .tgt | .pid | .map | .commit | .rd _ => false

/-- `STATE` after an event other than RESET, the transition table of 45_loop_driver.md R149. -/
def lifecycleAfter (i : Instr) (s : State) : Lifecycle :=
  match s.lifecycle with
  | .unconf => if isInitEvent i && !(validityMask params s.cfg).any then .idle else .unconf
  | .idle =>
    if isTickEvent i then (if s.ports.cntFail || s.ports.pwmFail then .fault else .running) else .idle
  | .running =>
    if isTickEvent i && (s.ports.cntFail || s.ports.pwmFail) then .fault else .running
  | .fault => .fault

/-- The part of the state that is cells of the register space (10_state.md R21). -/
def State.Of.sameCells {N : Type} (s t : State.Of N) : Prop :=
  s.lifecycle = t.lifecycle ∧ s.flags = t.flags ∧ s.phase = t.phase ∧ s.cause = t.cause ∧
  s.cfgDetail = t.cfgDetail ∧ s.cfg = t.cfg ∧ s.ctl = t.ctl ∧ s.duty = t.duty ∧ s.lat = t.lat

/-- The part of the state that is outside the block: the ports, the external duties, the events to
come and the count of free values (10_state.md R53, R54). -/
def State.Of.sameOutside {N : Type} (s t : State.Of N) : Prop :=
  s.ports = t.ports ∧ s.pwmExt = t.pwmExt ∧ s.arrivals = t.arrivals ∧ s.freeCount = t.freeCount

/-- The states after each of a row of ticks, one cycle a sample, each tick taken with the sample the
ports then present; it ends early if a tick does not answer a next state (none does). -/
def cycles : List (TickSample Num) → State → List State
  | [], _ => []
  | p :: ps, s =>
    match exec .tick (startEvent p s) with
    | .next t => t :: cycles ps t
    | .fault _ => []
    | .refused _ => []

/-- The state at the end of a row of ticks. -/
def afterCycles (ps : List (TickSample Num)) (s : State) : State := (cycles ps s).getLastD s

/-- What the sign-reversal property compares: every cell but `CTRL.REVERSE`, the external duties and
the output (43_target_and_pid.md R121). -/
structure ControlView where
  lifecycle : Lifecycle
  flags : StickyFlags
  phase : Phase
  cause : Option Exc
  cfgDetail : CfgDetail
  ctl : ControllerState Num
  duty : PwmCommand
  lat : Latches Num
  pwmExt : PwmCommand
  out : Output Num
deriving DecidableEq, Repr

/-- The compared part of a state. -/
def State.controlView (s : State) : ControlView :=
  { lifecycle := s.lifecycle, flags := s.flags, phase := s.phase, cause := s.cause
    cfgDetail := s.cfgDetail, ctl := s.ctl, duty := s.duty, lat := s.lat
    pwmExt := s.pwmExt, out := s.out }

end Sys2Proof.Machine
end

