-- ==== Sys2Proof/Certificates/Slice0/Obligations.lean ====
section
/-! DEFINITION. The statements for the provers. Each docstring names the rule of spec/ it formalises. -/

open Sys2Proof Sys2Proof.Machine

/-! ### Encoding -/

/-- 30_encoding.md R85, R87, R82: command words, micro-program entries and bus headers, written out from
the tables, decode to what they stand for. -/
def Obligations.WrittenOutWordsDecode : Prop :=
  decode (.cmd 0b00000000) = .ok (.nop : Instr) ∧ decode (.cmd 0b00000001) = .ok (.init : Instr) ∧
  decode (.cmd 0b00000010) = .ok (.tick : Instr) ∧ decode (.micro 0b00001000) = .ok (.rdrst : Instr) ∧
  decode (.micro 0b00001101) = .ok (.commit : Instr) ∧
  decode (.bus 0b00001110 none) = .ok (.rd 0x0E : Instr) ∧
  decode (.bus 0b10001010 (some (.int 10))) = .ok (.wr 0x0A (.int 10) : Instr) ∧
  decode (.cmd 0b00001011 : Wire Rat) = .error .microOnCmd ∧
  decode (.cmd 0b00010010 : Wire Rat) = .error .highBits

/-- 30_encoding.md R85, R89: an operation legal on a channel is encoded there and decodes to itself, with
every operand at every value. -/
def Obligations.DecodeOfEncodeIsTheInstruction : Prop :=
  ∀ (c : Channel) (i : Instr), wellFormed c i = true →
    ∃ w, encode c i = some w ∧ w.channel = c ∧ decode w = .ok i

/-- 30_encoding.md R86, R89: a word has one meaning and a meaning one word on its channel; what decodes is
legal where it arrived and encodes back to the very bits it came as. -/
def Obligations.DecodedWordsEncodeBack : Prop :=
  ∀ (w : Wire Rat) (i : Instr), decode w = .ok i →
    wellFormed w.channel i = true ∧ encode w.channel i = some w

/-- 30_encoding.md R88: the tick record and the sample it carries determine one another. -/
def Obligations.TickRecordRoundTrip : Prop :=
  (∀ p : TickSample Rat, decodeSample (encodeSample p) = .ok p) ∧
  (∀ (r : TickRecord Rat) (p : TickSample Rat), decodeSample r = .ok p → encodeSample p = r) ∧
  (∀ r : TickRecord Rat, (∃ p, decodeSample r = .ok p) ↔ r.flags.toNat < 4)

/-- 10_state.md R21, R22, 20_memory.md R64: each of the 29 cells has the number, the type and the bank of the
table, and is found under its number; every other number names none. -/
def Obligations.RegisterMapIsTheTable : Prop :=
  (∀ row ∈
    [((0x00 : RegNum), Reg.cmd, CellType.int), (0x01, Reg.status, .int), (0x02, Reg.cause, .int),
     (0x03, Reg.cfgDetail, .int), (0x08, Reg.gear, .num), (0x09, Reg.encRes, .num),
     (0x0A, Reg.sampleMs, .int), (0x0B, Reg.pwmMin, .int), (0x0C, Reg.pwmMax, .int),
     (0x0D, Reg.ctrl, .int), (0x0E, Reg.kp, .num), (0x0F, Reg.ki, .num), (0x10, Reg.kd, .num),
     (0x11, Reg.klpf, .num), (0x12, Reg.iclampLo, .num), (0x13, Reg.iclampHi, .num),
     (0x18, Reg.vel, .num), (0x19, Reg.velPrev, .num), (0x1A, Reg.pPrev, .num),
     (0x1B, Reg.iPrev, .num), (0x1C, Reg.target, .num), (0x20, Reg.dutyA, .int),
     (0x21, Reg.dutyB, .int), (0x28, Reg.delta, .int), (0x29, Reg.raw, .num), (0x2A, Reg.pNew, .num),
     (0x2B, Reg.iNew, .num), (0x2C, Reg.dNew, .num), (0x2D, Reg.u, .num)],
    row.2.1.number = row.1 ∧ Reg.ofNumber row.1 = some row.2.1 ∧ row.2.1.cellType = row.2.2) ∧
  (∀ r : Reg,
    (r.bank = .system ↔ r.number.toNat ≤ 0x03) ∧
    (r.bank = .motorConfig ↔ 0x08 ≤ r.number.toNat ∧ r.number.toNat ≤ 0x13) ∧
    (r.bank = .controllerState ↔ 0x18 ≤ r.number.toNat ∧ r.number.toNat ≤ 0x1C) ∧
    (r.bank = .pwmCommand ↔ 0x20 ≤ r.number.toNat ∧ r.number.toNat ≤ 0x21) ∧
    (r.bank = .latches ↔ 0x28 ≤ r.number.toNat)) ∧
  (∀ r : Reg, Reg.ofNumber r.number = some r) ∧
  (∀ n : RegNum, Reg.ofNumber n = none ↔
    ((0x04 ≤ n.toNat ∧ n.toNat ≤ 0x07) ∨ (0x14 ≤ n.toNat ∧ n.toNat ≤ 0x17) ∨
      (0x1D ≤ n.toNat ∧ n.toNat ≤ 0x1F) ∨ (0x22 ≤ n.toNat ∧ n.toNat ≤ 0x27) ∨ 0x2E ≤ n.toNat)) ∧
  (∀ (n : RegNum) (r : Reg), Reg.ofNumber n = some r → r.number = n)

/-! ### Reset -/

/-- 70_reset_and_hazards.md R211: after reset every cell reads zero, and nothing executes until an event
arrives. -/
def Obligations.ResetZeroesEveryCell : Prop :=
  (∀ r : Reg, readCell r State.reset = (match r.cellType with | .int => .int 0 | .num => .num 0)) ∧
  State.reset.lifecycle = .unconf ∧ step State.reset = .next State.reset

/-- 70_reset_and_hazards.md R210, R212, 60_exceptions.md R188: RESET, in any state, puts every cell to its
reset value, calls no port, leaves the external count, the external duties and the target source alone,
and loses what arrives with it. -/
def Obligations.ResetEventZeroesTheBlockOnly : Prop :=
  ∀ (s : State) (a : Arrival Rat) (rest : List (Arrival Rat)),
    s.arrivals = a :: rest → a.reset = true →
    ∃ t, step s = .next t ∧ t.sameCells State.reset ∧ (∀ r, readCell r t = readCell r State.reset) ∧
      t.ports = s.ports ∧ t.pwmExt = s.pwmExt ∧ t.portLog = [] ∧ t.arrivals = rest

/-- The invariant of the block holds after reset. -/
def Obligations.ResetMeetsTheInvariant : Prop := BlockInv State.reset

/-! ### The whole machine -/

/-- 10_state.md R44, R45, R47, R50, 60_exceptions.md R190, R192: what holds of the block between events is
kept by every step. -/
def Obligations.EveryStepKeepsTheInvariant : Prop :=
  ∀ s t : State, BlockInv s → step s = .next t → BlockInv t

/-- No instruction stops the machine: every operation, in every state, answers a next state. A recorded or a
fatal exception is one too, taken as 60_exceptions.md R180 and R190 say; EST raises none
(42_velocity_estimator.md R110), and where it divides by zero, of which R110 gives no value, it runs with a
free one (log 3). Between events the machine is never at a `PHASE` without a micro-program entry
(10_state.md R50, 30_encoding.md R87; the model's fault there is its own, log 8), so no step is a fault. -/
def Obligations.NoStepFaultsBetweenEvents : Prop :=
  (∀ (s : State) (f : Fault), BlockInv s → step s ≠ .fault f) ∧
  (∀ (i : Instr) (s : State), ∃ t, exec i s = .next t)

/-- What arrives on the bus, on the tick input or from the micro-program decodes to an instruction, and
the step is that instruction on the state in which the event has started (30_encoding.md R88, R89; the
form of the arrivals and the resuming of a cycle are the model's choice, log 1 and log 7). -/
def Obligations.AStepRunsTheDecodedInstruction : Prop :=
  (∀ (s : State) (b : BusAccess Rat) (rest : List (Arrival Rat)) (p : TickSample Rat) (i : Instr),
    s.midCycle = false → s.arrivals = { reset := false, bus := some b, tick := none } :: rest →
    decodeSample b.ports = .ok p → decode (.bus b.header b.payload) = .ok i →
    step s = exec i { s with arrivals := rest, ports := p, out := .none, portLog := [] }) ∧
  (∀ (s : State) (r : TickRecord Rat) (rest : List (Arrival Rat)) (p : TickSample Rat),
    s.midCycle = false → s.arrivals = { reset := false, bus := none, tick := some r } :: rest →
    decodeSample r = .ok p →
    step s = exec .tick { s with arrivals := rest, ports := p, out := .none, portLog := [] }) ∧
  (∀ (s : State) (w : Byte) (i : Instr),
    s.lifecycle = .running → s.resetPending = false → microProgram s.phase = some w →
    decode (.micro w) = .ok i →
    step s = exec i s)

/-- 20_memory.md R66: a tick and a bus access that arrive together are taken one after the other, in one
of the two orders. -/
def Obligations.SimultaneousEventsInEitherOrder : Prop :=
  ∀ (s : State) (b : BusAccess Rat) (r : TickRecord Rat) (rest : List (Arrival Rat))
    (pb pr : TickSample Rat) (i : Instr),
    s.midCycle = false → s.arrivals = { reset := false, bus := some b, tick := some r } :: rest →
    decodeSample b.ports = .ok pb → decodeSample r = .ok pr →
    decode (.bus b.header b.payload) = .ok i →
    (∃ n, step s = exec .tick
      { s with
        arrivals := { reset := false, bus := some b, tick := none } :: rest
        ports := pr, out := .none, portLog := [], freeCount := n }) ∨
    (∃ n, step s = exec i
      { s with
        arrivals := { reset := false, bus := none, tick := some r } :: rest
        ports := pb, out := .none, portLog := [], freeCount := n })

/-- 45_loop_driver.md R149: the complete transition table of `STATE`, for every operation that can be an
event, and RESET from any state. -/
def Obligations.LifecycleFollowsTheTransitionTable : Prop :=
  (∀ (i : Instr) (s t : State), i.isMicro = false → exec i s = .next t →
    t.lifecycle = lifecycleAfter i s) ∧
  (∀ (s t : State) (a : Arrival Rat) (rest : List (Arrival Rat)), s.arrivals = a :: rest →
    a.reset = true → step s = .next t → t.lifecycle = .unconf)

/-- 10_state.md R24 (no flag is ever cleared by anything but RESET), 60_exceptions.md R194: no operation
clears a sticky flag. -/
def Obligations.StickyFlagsAreNeverCleared : Prop :=
  ∀ (i : Instr) (s t : State) (e : Exc), exec i s = .next t →
    s.flags.has e = true → t.flags.has e = true

/-- 10_state.md R32: the MotorConfig cells change only by a host write in UNCONF; a write in IDLE or
RUNNING is dropped and raises WrDenied, in FAULT it is dropped silently. -/
def Obligations.ConfigurationIsFrozenAfterConstruction : Prop :=
  (∀ (i : Instr) (s t : State), s.lifecycle ≠ .unconf → exec i s = .next t → t.cfg = s.cfg) ∧
  (∀ (i : Instr) (s t : State), (∀ a v, i ≠ .wr a v) → exec i s = .next t → t.cfg = s.cfg) ∧
  (∀ (r : Reg) (v : Payload Rat) (s : State), r.bank = .motorConfig → s.accepts = true →
    exec (.wr r.number v) s =
      .next { s with cause := some .wrDenied, flags := { s.flags with wrErr := true } }) ∧
  (∀ (r : Reg) (v : Payload Rat) (s : State), r.bank = .motorConfig → s.lifecycle = .fault →
    exec (.wr r.number v) s = .next s)

/-- 60_exceptions.md R193: in FAULT every event but RESET leaves every cell as it is; every write and tick
is dropped, and every read returns the frozen value, 0 without IllAddr for an unassigned number. -/
def Obligations.FaultIsFinalUntilReset : Prop :=
  (∀ s t : State, s.lifecycle = .fault → step s = .next t →
    (t.sameCells s ∨ (∃ a rest, s.arrivals = a :: rest ∧ a.reset = true ∧ t.lifecycle = .unconf))) ∧
  (∀ (i : Instr) (s t : State), i.isMicro = false → s.lifecycle = .fault → exec i s = .next t →
    t.sameCells s ∧ t.sameOutside s) ∧
  (∀ (r : Reg) (s : State), s.lifecycle = .fault →
    exec (.rd r.number) s = .next { s with out := .rdata (readCell r s) }) ∧
  (∀ (n : RegNum) (s : State), s.lifecycle = .fault → Reg.ofNumber n = none →
    exec (.rd n) s = .next { s with out := .rdata (.int 0) })

/-! ### RD, WR and the bit-field cells -/

/-- 46_host_access_and_construction.md R160: a read returns the whole cell and changes no other thing; of an
unassigned number it returns `int 0` and raises IllAddr, except in FAULT; `CMD` reads 0; the header of a read
is the register number. Each cell of one value reads its own field of the state (10_state.md R21); the bit-field
cells are the subject of `BitFieldCellsReadAsLaidOut`. -/
def Obligations.ReadReturnsTheCell : Prop :=
  (∀ n : RegNum, decode (.bus (n.setWidth 8) none) = .ok (.rd n : Instr)) ∧
  (∀ (r : Reg) (s : State),
    exec (.rd r.number) s = .next { s with out := .rdata (readCell r s) }) ∧
  (∀ s : State, readCell .cmd s = .int 0) ∧
  (∀ s : State,
    readCell .gear s = .num s.cfg.gear ∧ readCell .encRes s = .num s.cfg.encRes ∧
    readCell .sampleMs s = .int s.cfg.sampleMs ∧ readCell .pwmMin s = .int s.cfg.pwmMin ∧
    readCell .pwmMax s = .int s.cfg.pwmMax ∧ readCell .kp s = .num s.cfg.kp ∧
    readCell .ki s = .num s.cfg.ki ∧ readCell .kd s = .num s.cfg.kd ∧
    readCell .klpf s = .num s.cfg.klpf ∧ readCell .iclampLo s = .num s.cfg.iclampLo ∧
    readCell .iclampHi s = .num s.cfg.iclampHi ∧ readCell .vel s = .num s.ctl.vel ∧
    readCell .velPrev s = .num s.ctl.velPrev ∧ readCell .pPrev s = .num s.ctl.pPrev ∧
    readCell .iPrev s = .num s.ctl.iPrev ∧ readCell .target s = .num s.ctl.target ∧
    readCell .dutyA s = .int s.duty.a ∧ readCell .dutyB s = .int s.duty.b ∧
    readCell .delta s = .int s.lat.delta ∧ readCell .raw s = .num s.lat.raw ∧
    readCell .pNew s = .num s.lat.pNew ∧ readCell .iNew s = .num s.lat.iNew ∧
    readCell .dNew s = .num s.lat.dNew ∧ readCell .u s = .num s.lat.u) ∧
  (∀ (n : RegNum) (s : State), (∀ r : Reg, r.number ≠ n) →
    exec (.rd n) s = .next
      (if s.lifecycle = .fault then { s with out := .rdata (.int 0) }
       else
        { s with
          out := .rdata (.int 0), cause := some .illAddr
          flags := { s.flags with addrErr := true } }))

/-- 10_state.md R24, R25, R26, R33: `STATUS`, `CAUSE`, `CFGDETAIL` and `CTRL` read with their fields at the places
of the tables and zeros elsewhere. -/
def Obligations.BitFieldCellsReadAsLaidOut : Prop :=
  (∀ s : State, ∃ w : I32, readCell .status s = .int w ∧
    (w.extractLsb' 0 2).toNat =
      (match s.lifecycle with | .unconf => 0 | .idle => 1 | .running => 2 | .fault => 3) ∧
    w.extractLsb' 2 2 = 0 ∧ w.getLsbD 4 = s.flags.cfgErr ∧ w.getLsbD 5 = s.flags.wrErr ∧
    w.getLsbD 6 = s.flags.cmdErr ∧ w.getLsbD 7 = s.flags.addrErr ∧ w.extractLsb' 8 3 = s.phase ∧
    w.extractLsb' 11 21 = 0) ∧
  (∀ s : State, readCell .cause s = .int
    (match s.cause with
      | none => 0 | some .cfgErr => 1 | some .cntFault => 2 | some .pwmFault => 3
      | some .wrDenied => 4 | some .illCmd => 5 | some .illAddr => 6)) ∧
  (∀ s : State, ∃ w : I32, readCell .cfgDetail s = .int w ∧ w.getLsbD 0 = s.cfgDetail.gearBad ∧
    w.getLsbD 1 = s.cfgDetail.resBad ∧ w.getLsbD 2 = s.cfgDetail.periodBad ∧
    w.getLsbD 3 = s.cfgDetail.kBad ∧ w.getLsbD 4 = s.cfgDetail.pwmBad ∧
    w.getLsbD 5 = s.cfgDetail.iclampBad ∧ w.getLsbD 6 = s.cfgDetail.gainBad ∧
    w.extractLsb' 7 25 = 0) ∧
  (∀ s : State, ∃ w : I32, readCell .ctrl s = .int w ∧ w.getLsbD 0 = s.cfg.reverse ∧
    w.getLsbD 1 = s.cfg.enD ∧ w.getLsbD 2 = s.cfg.iclampEn ∧ w.extractLsb' 3 29 = 0)

/-- 46_host_access_and_construction.md R161: in UNCONF a payload of the right type is stored in the
configuration cell it names, `CTRL` keeping bits 2:0, and every other cell and the outside stay. -/
def Obligations.WriteStoresAConfigurationCell : Prop :=
  ∀ (r : Reg) (v : Payload Rat) (s : State),
    s.lifecycle = .unconf → r.bank = .motorConfig → v.cellType = r.cellType →
    ∃ t, exec (.wr r.number v) s = .next t ∧
      (r ≠ .ctrl → readCell r t = v) ∧
      (∀ w, r = .ctrl → v = .int w → readCell .ctrl t = .int (w &&& 7)) ∧
      (∀ r', r' ≠ r → readCell r' t = readCell r' s) ∧
      t.sameOutside s ∧ t.out = s.out ∧ t.portLog = s.portLog

/-- 46_host_access_and_construction.md R161, 60_exceptions.md R182, R186, R189: outside FAULT a write to an
unassigned number raises IllAddr; to a read-only cell, in the wrong state or of the wrong type it raises
WrDenied; nothing else changes. -/
def Obligations.RefusedWritesChangeOnlyFlagAndCause : Prop :=
  (∀ (n : RegNum) (v : Payload Rat) (s : State), s.lifecycle ≠ .fault → (∀ r : Reg, r.number ≠ n) →
    exec (.wr n v) s =
      .next { s with cause := some .illAddr, flags := { s.flags with addrErr := true } }) ∧
  (∀ (r : Reg) (v : Payload Rat) (s : State), s.lifecycle ≠ .fault → r ≠ .cmd →
    (r.bank ≠ .motorConfig ∨ s.lifecycle ≠ .unconf ∨ v.cellType ≠ r.cellType) →
    exec (.wr r.number v) s =
      .next { s with cause := some .wrDenied, flags := { s.flags with wrErr := true } }) ∧
  (∀ (x : Rat) (s : State), s.lifecycle ≠ .fault →
    exec (.wr Reg.cmd.number (.num x)) s =
      .next { s with cause := some .wrDenied, flags := { s.flags with wrErr := true } })

/-- 46_host_access_and_construction.md R163, 45_loop_driver.md R145: outside FAULT a write of 0, 1 or 2 to `CMD`
is NOP, INIT or TICK. In FAULT, where R161 drops the write before R163 decodes it, the same equations hold by the
model's choice: log 14 (a dropped software TICK reports `dropped`) and log 15 (INIT is dropped). -/
def Obligations.CommandWriteRunsTheCommand : Prop :=
  ∀ s : State,
    exec (.wr Reg.cmd.number (.int 0)) s = exec .nop s ∧
    exec (.wr Reg.cmd.number (.int 1)) s = exec .init s ∧
    exec (.wr Reg.cmd.number (.int 2)) s = exec .tick s

/-- 30_encoding.md R86: every word above 2 written to `CMD` (bits 31:4 set, reserved, or a micro-operation)
raises IllCmd and does nothing else, as do INIT outside UNCONF and TICK in UNCONF; in FAULT the write is
dropped without IllCmd. -/
def Obligations.IllegalCommandsRaiseIllCmd : Prop :=
  (∀ (w : I32) (s : State), s.lifecycle ≠ .fault → 2 < w.toNat →
    exec (.wr Reg.cmd.number (.int w)) s =
      .next { s with cause := some .illCmd, flags := { s.flags with cmdErr := true } }) ∧
  (∀ s : State, s.accepts = true →
    exec (.wr Reg.cmd.number (.int 1)) s =
      .next { s with cause := some .illCmd, flags := { s.flags with cmdErr := true } }) ∧
  (∀ s : State, s.lifecycle = .unconf →
    exec (.wr Reg.cmd.number (.int 2)) s =
      .next
        { s with
          cause := some .illCmd, flags := { s.flags with cmdErr := true }
          out := .tick (.refused .illCmd) }) ∧
  (∀ (v : Payload Rat) (s t : State), s.lifecycle = .fault →
    exec (.wr Reg.cmd.number v) s = .next t → t.sameCells s)

/-! ### NOP and INIT -/

/-- 46_host_access_and_construction.md R164: NOP, the all-zero word on `CMD`, leaves every cell, and everything
else, unchanged. -/
def Obligations.NopChangesNothing : Prop :=
  decode (.cmd 0) = .ok (.nop : Instr) ∧ (∀ s : State, exec .nop s = .next s) ∧
  (∀ s : State, exec (.wr Reg.cmd.number (.int 0)) s = .next s)

/-- 46_host_access_and_construction.md R170: each bit of the mask is set exactly when its check fails, whatever
the others do. -/
def Obligations.ValidityMaskReportsEveryFailure : Prop :=
  ∀ c : MotorConfig Rat,
    (((validityMask params c).word.getLsbD 0 = true ↔ ¬ 0 < c.gear) ∧
    ((validityMask params c).word.getLsbD 1 = true ↔ ¬ 0 < c.encRes) ∧
    ((validityMask params c).word.getLsbD 2 = true ↔ ¬ 0 < c.sampleMs.toInt) ∧
    ((validityMask params c).word.getLsbD 3 = true ↔ ¬ (0 ≤ c.klpf ∧ c.klpf ≤ 1)) ∧
    ((validityMask params c).word.getLsbD 4 = true ↔ (c.pwmMin ≠ 0 ∨ c.pwmMax.toInt < 0)) ∧
    ((validityMask params c).word.getLsbD 5 = true ↔ (c.iclampEn = true ∧ ¬ c.iclampLo ≤ c.iclampHi)) ∧
    ((validityMask params c).word.getLsbD 6 = true ↔ gainValid c.kp c.ki c.kd = false) ∧
    (validityMask params c).word.extractLsb' 7 25 = 0) ∧
    ((validityMask params c).any = true ↔ (validityMask params c).word ≠ 0)

/-- 46_host_access_and_construction.md R165, R171: in UNCONF a configuration that passes every check constructs
the controller: ControllerState and latches zero, `CFGDETAIL` 0, IDLE, nothing else; no port is called. -/
def Obligations.InitConstructsFromAValidConfiguration : Prop :=
  ∀ s : State, s.lifecycle = .unconf → 0 < s.cfg.gear → 0 < s.cfg.encRes → 0 < s.cfg.sampleMs.toInt →
    0 ≤ s.cfg.klpf → s.cfg.klpf ≤ 1 → s.cfg.pwmMin = 0 → 0 ≤ s.cfg.pwmMax.toInt →
    (s.cfg.iclampEn = true → s.cfg.iclampLo ≤ s.cfg.iclampHi) →
    gainValid s.cfg.kp s.cfg.ki s.cfg.kd = true →
    exec .init s = .next
      { s with
        lifecycle := .idle
        cfgDetail := ⟨false, false, false, false, false, false, false⟩
        ctl := { vel := 0, velPrev := 0, pPrev := 0, iPrev := 0, target := 0 }
        lat := { delta := 0, raw := 0, pNew := 0, iNew := 0, dNew := 0, u := 0 } }

/-- 46_host_access_and_construction.md R171: after a successful INIT every cell of 0x18 to 0x2D is 0, the duty
cells because nothing else can have written them. -/
def Obligations.InitLeavesTheControllerZero : Prop :=
  ∀ s t : State, BlockInv s → s.lifecycle = .unconf → exec .init s = .next t → t.lifecycle = .idle →
    t.duty = s.duty ∧
    ∀ r : Reg, r.bank = .controllerState ∨ r.bank = .pwmCommand ∨ r.bank = .latches →
      readCell r t = (match r.cellType with | .int => .int 0 | .num => .num 0)

/-- 60_exceptions.md R183: in UNCONF a mask that is not zero raises CfgErr: `CFGDETAIL` holds the mask,
`F_CFGERR` and `CAUSE` are set, the block stays in UNCONF, ControllerState and the latches stay. -/
def Obligations.InitRejectsAnInvalidConfiguration : Prop :=
  ∀ s : State, s.lifecycle = .unconf → (validityMask params s.cfg).word ≠ 0 →
    exec .init s = .next
      { s with
        cfgDetail := validityMask params s.cfg
        cause := some .cfgErr
        flags := { s.flags with cfgErr := true } }

/-- 46_host_access_and_construction.md R172: once constructed a further INIT raises IllCmd and changes nothing
else; in FAULT it is dropped (R162, R193, over the pseudo-code of R165: the model's choice, log 15); a rejected
INIT leaves the block in UNCONF and may be followed, with any other cells, by another one, which overwrites
`CFGDETAIL` and succeeds exactly when they pass; `F_CFGERR` stays. -/
def Obligations.InitSucceedsOnceAndMayBeRetried : Prop :=
  (∀ s : State, s.accepts = true → exec .init s =
    .next { s with cause := some .illCmd, flags := { s.flags with cmdErr := true } }) ∧
  (∀ s : State, s.lifecycle = .fault → exec .init s = .next s) ∧
  (∀ (s t : State) (c : MotorConfig Rat), s.lifecycle = .unconf → (validityMask params s.cfg).any = true →
    exec .init s = .next t →
    t.lifecycle = .unconf ∧ t.cfgDetail = validityMask params s.cfg ∧ t.flags.cfgErr = true ∧
    ∃ t', exec .init { t with cfg := c } = .next t' ∧ t'.cfg = c ∧ t'.cfgDetail = validityMask params c ∧
      t'.flags.cfgErr = true ∧
      t'.lifecycle = (if (validityMask params c).any then .unconf else .idle))

/-! ### The micro-operations -/

/-- 41_pulse_counter.md R101, R104: without a reported failure RDRST takes the count sign-extended into
`DELTA`, clears the external count and goes to step 2, and nothing else changes; with one it raises
CntFault and touches neither port nor `DELTA`. -/
def Obligations.RdrstReadsAndClearsTheCount : Prop :=
  isMicroEntry .rdrst 1 0x08 ∧
  (∀ s : State, s.ports.cntFail = false → exec .rdrst s = .next
    { s with
      lat := { s.lat with delta := s.ports.cnt.signExtend 32 }
      ports := { s.ports with cnt := 0 }
      portLog := s.portLog ++ [.cntRead s.ports.cnt, .cntClear]
      phase := 2 }) ∧
  (∀ s : State, s.ports.cntFail = true → exec .rdrst s = .next
    { s with cause := some .cntFault, lifecycle := .fault })

/-- 41_pulse_counter.md R102: `DELTA` is the count with its value unchanged, so in [-32768, 32767]. -/
def Obligations.DeltaKeepsTheSignedValueOfTheCount : Prop :=
  ∀ s t : State, s.ports.cntFail = false → exec .rdrst s = .next t →
    t.lat.delta.toInt = s.ports.cnt.toInt ∧
    -32768 ≤ t.lat.delta.toInt ∧ t.lat.delta.toInt ≤ 32767

/-- 42_velocity_estimator.md R110, R111, R112, R116: EST writes `RAW` and `VEL` and goes to step 3, and nothing
else changes; `VEL` is the filter of what `RAW` becomes, and `RAW` is the speed formula where its divisors
are not zero (elsewhere a free value, log 3). -/
def Obligations.EstComputesRawAndFilteredSpeed : Prop :=
  isMicroEntry .est 2 0x09 ∧
  ∀ s : State, ∃ raw vel : Rat,
    exec .est s = .next
      { s with lat := { s.lat with raw := raw }, ctl := { s.ctl with vel := vel }, phase := 3 } ∧
    vel = s.cfg.klpf * s.ctl.velPrev + (1 - s.cfg.klpf) * raw ∧
    (s.cfg.gear * s.cfg.encRes ≠ 0 → s.cfg.sampleMs.toInt ≠ 0 →
      raw = ((s.lat.delta.toInt : Rat) / (s.cfg.gear * s.cfg.encRes)) *
        (60000 / (s.cfg.sampleMs.toInt : Rat)))

/-- 42_velocity_estimator.md R111, R114: the raw speed is linear in the delta, and a negative delta gives a
negative speed. -/
def Obligations.RawSpeedIsLinearInTheDelta : Prop :=
  ∀ s t : State, 0 < s.cfg.gear → 0 < s.cfg.encRes → 0 < s.cfg.sampleMs.toInt →
    exec .est s = .next t →
    t.lat.raw = (s.lat.delta.toInt : Rat) * 60000 /
      (s.cfg.gear * s.cfg.encRes * (s.cfg.sampleMs.toInt : Rat)) ∧
    (s.lat.delta.toInt < 0 → t.lat.raw < 0)

/-- 42_velocity_estimator.md R115: with 0 <= `KLPF` <= 1 the filtered speed lies between `VEL_PREV` and `RAW`. -/
def Obligations.FilterIsAConvexCombination : Prop :=
  ∀ s t : State, 0 ≤ s.cfg.klpf → s.cfg.klpf ≤ 1 → exec .est s = .next t →
    min t.ctl.velPrev t.lat.raw ≤ t.ctl.vel ∧ t.ctl.vel ≤ max t.ctl.velPrev t.lat.raw

/-- 42_velocity_estimator.md R113: with `DELTA` = 0 the raw speed is 0 and `VEL` is `KLPF` times `VEL_PREV`;
n cycles of zero delta in a row multiply the estimate by `KLPF` to the n. -/
def Obligations.ZeroDeltaDecaysTheEstimate : Prop :=
  (∀ s t : State, 0 < s.cfg.gear → 0 < s.cfg.encRes → 0 < s.cfg.sampleMs.toInt →
    s.lat.delta = 0 → exec .est s = .next t →
    t.lat.raw = 0 ∧ t.ctl.vel = s.cfg.klpf * s.ctl.velPrev) ∧
  (∀ (ps : List (TickSample Rat)) (s : State), BlockInv s → s.accepts = true →
    (∀ p ∈ ps, p.clean = true ∧ p.cnt = 0) →
    (cycles ps s).length = ps.length ∧
    (afterCycles ps s).ctl.vel = s.cfg.klpf ^ ps.length * s.ctl.vel)

/-- 43_target_and_pid.md R120: TGT samples the target once, negates it when `CTRL.REVERSE` is set, stores it in
`TARGET` and goes to step 4; nothing else changes. -/
def Obligations.TgtTakesTheTarget : Prop :=
  isMicroEntry .tgt 3 0x0A ∧
  ∀ s : State, exec .tgt s = .next
    { s with
      ctl := { s.ctl with target := if s.cfg.reverse then -s.ports.tgt else s.ports.tgt }
      portLog := s.portLog ++ [.targetSample s.ports.tgt]
      phase := 4 }

/-- 43_target_and_pid.md R122, R123, R124, R126, R127: PID latches the error, the running sum, the derivative and
the output, whose derivative part enters only with `CTRL.EN_D`, and goes to step 5; nothing else
changes. The clamped sum is given where the range is ordered, which is all R10 defines (log 18). -/
def Obligations.PidComputesTheControlOutput : Prop :=
  isMicroEntry .pid 4 0x0B ∧
  ∀ s : State, ∃ p i d u : Rat,
    exec .pid s = .next
      { s with lat := { s.lat with pNew := p, iNew := i, dNew := d, u := u }, phase := 5 } ∧
    p = s.ctl.target - s.ctl.vel ∧
    (s.cfg.iclampEn = false → i = s.ctl.iPrev + p) ∧
    (s.cfg.iclampEn = true → s.cfg.iclampLo ≤ s.cfg.iclampHi →
      i = (if s.ctl.iPrev + p < s.cfg.iclampLo then s.cfg.iclampLo
           else if s.cfg.iclampHi < s.ctl.iPrev + p then s.cfg.iclampHi else s.ctl.iPrev + p)) ∧
    d = p - s.ctl.pPrev ∧
    u = (s.cfg.kp * p + s.cfg.ki * i) + (if s.cfg.enD then s.cfg.kd * d else 0)

/-- 43_target_and_pid.md R125: with the clamp enabled the updated sum is limited to the range before it is used
in the output and before it is latched, so a completed cycle never stores an integral outside it; with
the clamp off the range cells are not read. -/
def Obligations.IntegralClampBoundsTheIntegral : Prop :=
  (∀ s t : State, s.cfg.iclampEn = true → s.cfg.iclampLo ≤ s.cfg.iclampHi → exec .pid s = .next t →
    t.lat.iNew = max s.cfg.iclampLo (min (s.ctl.iPrev + t.lat.pNew) s.cfg.iclampHi) ∧
    t.lat.u = (s.cfg.kp * t.lat.pNew + s.cfg.ki * t.lat.iNew) +
      (if s.cfg.enD then s.cfg.kd * t.lat.dNew else 0)) ∧
  (∀ s t : State, s.cfg.iclampEn = true → s.cfg.iclampLo ≤ s.cfg.iclampHi → s.accepts = true →
    exec .tick s = .next t → t.lifecycle = .running →
    s.cfg.iclampLo ≤ t.ctl.iPrev ∧ t.ctl.iPrev ≤ s.cfg.iclampHi) ∧
  (∀ (s t : State) (lo hi : Rat), s.cfg.iclampEn = false → exec .pid s = .next t →
    exec .pid { s with cfg := { s.cfg with iclampLo := lo, iclampHi := hi } } =
      .next { t with cfg := { s.cfg with iclampLo := lo, iclampHi := hi } })

/-- 44_pwm_mapper.md R135, R136, R137, R140: without a reported failure MAP hands one pair to the PWM port, mirrors
it in `DUTY_A`, `DUTY_B` and goes to step 6, and nothing else changes; the pair is the truncated magnitude
limited to `PWM_MAX` on the channel of the sign and `PWM_MIN` on the other. -/
def Obligations.MapHandsOverTheTwoDuties : Prop :=
  isMicroEntry .map 5 0x0C ∧
  ∀ s : State, s.ports.pwmFail = false → ∃ d : PwmCommand,
    exec .map s = .next
      { s with
        duty := d, pwmExt := d
        portLog := s.portLog ++ [.pwmWrite d.a d.b]
        phase := 6 } ∧
    (0 ≤ s.cfg.pwmMax.toInt →
      d = if 0 ≤ s.lat.u then
            { a := BitVec.ofInt 32 ⌊min s.lat.u (s.cfg.pwmMax.toInt : Rat)⌋, b := s.cfg.pwmMin }
          else
            { a := s.cfg.pwmMin, b := BitVec.ofInt 32 ⌊min (-s.lat.u) (s.cfg.pwmMax.toInt : Rat)⌋ })

/-- 44_pwm_mapper.md R138: an output beyond `PWM_MAX` in magnitude maps to exactly `PWM_MAX` on its channel, and no
duty ever exceeds it. -/
def Obligations.MapSaturatesAtPwmMax : Prop :=
  ∀ s t : State, s.ports.pwmFail = false → s.cfg.pwmMin = 0 → 0 ≤ s.cfg.pwmMax.toInt →
    exec .map s = .next t →
    ((s.cfg.pwmMax.toInt : Rat) < s.lat.u → t.duty = { a := s.cfg.pwmMax, b := 0 }) ∧
    (s.lat.u < -(s.cfg.pwmMax.toInt : Rat) → t.duty = { a := 0, b := s.cfg.pwmMax }) ∧
    0 ≤ t.duty.a.toInt ∧ t.duty.a.toInt ≤ s.cfg.pwmMax.toInt ∧
    0 ≤ t.duty.b.toInt ∧ t.duty.b.toInt ≤ s.cfg.pwmMax.toInt

/-- 44_pwm_mapper.md R139: the duty of the driving channel is the greatest integer not above the clamped magnitude,
for either sign, and truncating before clamping would give the same. -/
def Obligations.MapTruncatesTowardZero : Prop :=
  ∀ s t : State, s.ports.pwmFail = false → 0 ≤ s.cfg.pwmMax.toInt → exec .map s = .next t →
    ∃ k : Int, (k : Rat) ≤ min |s.lat.u| (s.cfg.pwmMax.toInt : Rat) ∧
      min |s.lat.u| (s.cfg.pwmMax.toInt : Rat) < (k : Rat) + 1 ∧
      0 ≤ k ∧ k ≤ s.cfg.pwmMax.toInt ∧ k = min ⌊|s.lat.u|⌋ s.cfg.pwmMax.toInt ∧
      (if 0 ≤ s.lat.u then t.duty.a.toInt = k else t.duty.b.toInt = k)

/-- 44_pwm_mapper.md R141: after MAP one duty is 0, and both are exactly when the output is strictly between -1
and 1 or `PWM_MAX` is 0. -/
def Obligations.MapDrivesAtMostOneChannel : Prop :=
  ∀ s t : State, s.ports.pwmFail = false → s.cfg.pwmMin = 0 → 0 ≤ s.cfg.pwmMax.toInt →
    exec .map s = .next t →
    (t.duty.a = 0 ∨ t.duty.b = 0) ∧
    ((t.duty.a = 0 ∧ t.duty.b = 0) ↔ ((-1 < s.lat.u ∧ s.lat.u < 1) ∨ s.cfg.pwmMax = 0))

/-- 44_pwm_mapper.md R143: a reported failure raises PwmFault before the duties are handed over: `DUTY_A`, `DUTY_B`
and `PHASE` stay, and the external duties are any value (log 11). -/
def Obligations.MapFailureRaisesPwmFault : Prop :=
  ∀ s : State, s.ports.pwmFail = true → ∃ (d : PwmCommand) (n : Nat),
    exec .map s = .next
      { s with cause := some .pwmFault, lifecycle := .fault, pwmExt := d, freeCount := n }

/-- 45_loop_driver.md R148: COMMIT copies `VEL`, `P_NEW`, `I_NEW` into the three memories and sets `PHASE` to 0;
nothing else changes. -/
def Obligations.CommitStoresTheMemories : Prop :=
  isMicroEntry .commit 6 0x0D ∧
  ∀ s : State, exec .commit s = .next
    { s with
      ctl := { s.ctl with velPrev := s.ctl.vel, pPrev := s.lat.pNew, iPrev := s.lat.iNew }
      phase := 0 }

/-- 10_state.md R37 to R48: the frame of the six micro-operations, by register number: each writes only the cells
its rule lists, `STATUS`, and `CAUSE` if it raises; flags, configuration, events to come and output stay. -/
def Obligations.MicroOperationsWriteOnlyTheirCells : Prop :=
  ∀ (i : Instr) (s t : State) (r : Reg), i.isMicro = true → exec i s = .next t →
    t.flags = s.flags ∧ t.cfg = s.cfg ∧ t.cfgDetail = s.cfgDetail ∧ t.arrivals = s.arrivals ∧
    t.out = s.out ∧ (t.lifecycle ≠ .fault → t.cause = s.cause ∧ t.lifecycle = s.lifecycle) ∧
    (r ≠ .status → r ≠ .cause →
      (i = .rdrst → r ≠ .delta) → (i = .est → r ≠ .raw ∧ r ≠ .vel) → (i = .tgt → r ≠ .target) →
      (i = .pid → r ≠ .pNew ∧ r ≠ .iNew ∧ r ≠ .dNew ∧ r ≠ .u) →
      (i = .map → r ≠ .dutyA ∧ r ≠ .dutyB) →
      (i = .commit → r ≠ .velPrev ∧ r ≠ .pPrev ∧ r ≠ .iPrev) →
      readCell r t = readCell r s)

/-! ### TICK -/

/-- 45_loop_driver.md R145, R146, R147: a cycle that is not cut short is the six micro-operations, once each, in
order, `PHASE` counting them, from RUNNING and `PHASE` 1; the result of the tick is all that is added. -/
def Obligations.TickIsTheSixStepsInOrder : Prop :=
  ∀ s : State, s.accepts = true → s.ports.cntFail = false → s.ports.pwmFail = false →
    ∃ s1 s2 s3 s4 s5 s6 : State,
      exec .rdrst { s with lifecycle := .running, phase := 1 } = .next s1 ∧ s1.phase = 2 ∧
      exec .est s1 = .next s2 ∧ s2.phase = 3 ∧
      exec .tgt s2 = .next s3 ∧ s3.phase = 4 ∧
      exec .pid s3 = .next s4 ∧ s4.phase = 5 ∧
      exec .map s4 = .next s5 ∧ s5.phase = 6 ∧
      exec .commit s5 = .next s6 ∧ s6.phase = 0 ∧
      exec .tick s = .next { s6 with out := .tick (.ok s6.duty.a s6.duty.b) }

/-- 45_loop_driver.md R146: a cycle that is not cut short is the function of the rule, every cell, port and output,
with the derivative and the clamp as configured. -/
def Obligations.TickRunsOneWholeCycle : Prop :=
  ∀ s : State, s.accepts = true → (validityMask params s.cfg).any = false →
    s.ports.cntFail = false → s.ports.pwmFail = false →
    ∃ (raw vel target p i u : Rat) (d : PwmCommand),
      exec .tick s = .next
        { s with
          lifecycle := .running
          phase := 0
          lat := { delta := s.ports.cnt.signExtend 32, raw := raw, pNew := p, iNew := i
                   dNew := p - s.ctl.pPrev, u := u }
          ctl := { vel := vel, velPrev := vel, pPrev := p, iPrev := i, target := target }
          duty := d
          pwmExt := d
          ports := { s.ports with cnt := 0 }
          portLog := s.portLog ++
            [.cntRead s.ports.cnt, .cntClear, .targetSample s.ports.tgt, .pwmWrite d.a d.b]
          out := .tick (.ok d.a d.b) } ∧
      raw = ((s.ports.cnt.toInt : Rat) / (s.cfg.gear * s.cfg.encRes)) *
        (60000 / (s.cfg.sampleMs.toInt : Rat)) ∧
      vel = s.cfg.klpf * s.ctl.velPrev + (1 - s.cfg.klpf) * raw ∧
      target = (if s.cfg.reverse then -s.ports.tgt else s.ports.tgt) ∧
      p = target - vel ∧
      i = (if s.cfg.iclampEn then max s.cfg.iclampLo (min (s.ctl.iPrev + p) s.cfg.iclampHi)
           else s.ctl.iPrev + p) ∧
      u = s.cfg.kp * p + s.cfg.ki * i + (if s.cfg.enD then s.cfg.kd * (p - s.ctl.pPrev) else 0) ∧
      d = (if 0 ≤ u then { a := BitVec.ofInt 32 ⌊min u (s.cfg.pwmMax.toInt : Rat)⌋, b := 0 }
           else { a := 0, b := BitVec.ofInt 32 ⌊min (-u) (s.cfg.pwmMax.toInt : Rat)⌋ })

/-- 45_loop_driver.md R151: in UNCONF a tick runs no step, touches no port and raises IllCmd; in FAULT it is dropped
with no effect on any cell and no exception. -/
def Obligations.TickOutsideIdleAndRunning : Prop :=
  (∀ s : State, s.lifecycle = .unconf → exec .tick s = .next
    { s with
      cause := some .illCmd, flags := { s.flags with cmdErr := true }
      out := .tick (.refused .illCmd) }) ∧
  (∀ s : State, s.lifecycle = .fault → exec .tick s = .next { s with out := .tick .dropped })

/-- 60_exceptions.md R192, R189: a counter fault cuts the cycle at step 1, whatever the PWM fault input says: FAULT,
`PHASE` 1, `CAUSE` 2, every other cell and every port as before. -/
def Obligations.CounterFaultCutsTheCycleAtStepOne : Prop :=
  ∀ s : State, s.accepts = true → s.ports.cntFail = true →
    exec .tick s = .next
      { s with
        lifecycle := .fault, phase := 1, cause := some .cntFault
        out := .tick (.fault .cntFault) }

/-- 60_exceptions.md R192, 44_pwm_mapper.md R143: a PWM fault cuts the cycle at step 5: FAULT, `PHASE` 5, `CAUSE` 3;
`DELTA`, `RAW`, `VEL`, `TARGET` and the PID latches are this cycle's, the three memories and the duties the
previous cycle's; the count was cleared and the target sampled. -/
def Obligations.PwmFaultCutsTheCycleAtStepFive : Prop :=
  ∀ s : State, s.accepts = true → (validityMask params s.cfg).any = false →
    s.ports.cntFail = false → s.ports.pwmFail = true →
    ∃ (t g : State), exec .tick s = .next t ∧
      exec .tick { s with ports := { s.ports with pwmFail := false } } = .next g ∧
      g.lifecycle = .running ∧
      t.lifecycle = .fault ∧ t.phase = 5 ∧ t.cause = some .pwmFault ∧ t.flags = s.flags ∧
      t.cfg = s.cfg ∧ t.cfgDetail = s.cfgDetail ∧ t.lat = g.lat ∧ t.duty = s.duty ∧
      t.ctl.vel = g.ctl.vel ∧ t.ctl.target = g.ctl.target ∧ t.ctl.velPrev = s.ctl.velPrev ∧
      t.ctl.pPrev = s.ctl.pPrev ∧ t.ctl.iPrev = s.ctl.iPrev ∧
      t.ports = { s.ports with cnt := 0 } ∧
      t.portLog = s.portLog ++ [.cntRead s.ports.cnt, .cntClear, .targetSample s.ports.tgt] ∧
      t.out = .tick (.fault .pwmFault)

/-- 20_memory.md R72: in a completed cycle the ports are touched once each in the order read, clear, sample, write; a
counter fault touches none and a PWM fault leaves out the write. -/
def Obligations.PortsAreTouchedInTheFixedOrder : Prop :=
  ∀ (p : TickSample Rat) (s t : State), s.accepts = true → exec .tick (startEvent p s) = .next t →
    (p.cntFail = true → t.portLog = []) ∧
    (p.cntFail = false → p.pwmFail = true →
      t.portLog = [.cntRead p.cnt, .cntClear, .targetSample p.tgt]) ∧
    (p.cntFail = false → p.pwmFail = false →
      t.portLog = [.cntRead p.cnt, .cntClear, .targetSample p.tgt, .pwmWrite t.duty.a t.duty.b])

/-- 60_exceptions.md R191: the result of a TICK event says what became of it, and the cells say the same. -/
def Obligations.TickReportsItsResult : Prop :=
  ∀ s t : State, exec .tick s = .next t →
    (∀ e, t.out = .tick (.fault e) → t.lifecycle = .fault ∧ t.cause = some e) ∧
    (t.out = .tick (.refused .illCmd) → t.lifecycle = .unconf ∧ t.cause = some .illCmd) ∧
    (∀ a b, t.out = .tick (.ok a b) →
      t.lifecycle = .running ∧ t.phase = 0 ∧ t.duty = { a := a, b := b }) ∧
    (t.out = .tick .dropped → t.lifecycle = .fault) ∧
    t.out = .tick
      (match s.lifecycle with
        | .unconf => .refused .illCmd
        | .fault => .dropped
        | .idle => if s.ports.cntFail then .fault .cntFault
                   else if s.ports.pwmFail then .fault .pwmFault else .ok t.duty.a t.duty.b
        | .running => if s.ports.cntFail then .fault .cntFault
                      else if s.ports.pwmFail then .fault .pwmFault else .ok t.duty.a t.duty.b)

/-- 43_target_and_pid.md R129: with the clamp off, over any completed cycles `I_PREV` grows by the sum of their
`P_NEW`, by n times p where they are all p. -/
def Obligations.IntegralIsARunningSum : Prop :=
  ∀ (ps : List (TickSample Rat)) (s : State), s.accepts = true → s.cfg.iclampEn = false →
    (∀ p ∈ ps, p.clean = true) →
    (cycles ps s).length = ps.length ∧
    (afterCycles ps s).ctl.iPrev = s.ctl.iPrev + ((cycles ps s).map (fun t => t.lat.pNew)).sum ∧
    (∀ x : Rat, (∀ t ∈ cycles ps s, t.lat.pNew = x) →
      (afterCycles ps s).ctl.iPrev = s.ctl.iPrev + ps.length * x)

/-- 43_target_and_pid.md R121: a reversed block and an unreversed one fed the negated targets, from states equal but
for the flag, go through equal states, latches, duties and results, tick by tick. -/
def Obligations.ReversalNegatesTheTargetOnly : Prop :=
  ∀ (ps : List (TickSample Rat)) (s : State), s.cfg.reverse = true →
    (cycles ps s).map State.controlView =
      (cycles (ps.map TickSample.negTarget)
        { s with cfg := { s.cfg with reverse := false } }).map State.controlView

/-! ### The parameters -/

/-- 10_state.md R55, 00_scope.md R8: the machine takes the carrier of `Num`, its operations and `GAIN_VALID` as
an argument; `step` and `exec` are the case of the exact rationals (log 2) and of a gain range that is free
(log 4), of which only the reset gains are known to be in range (70_reset_and_hazards.md R211, log 22). -/
def Obligations.TheMachineTakesItsParametersAsAnArgument : Prop :=
  (∀ s : State, step s = stepWith params s) ∧
  (∀ (i : Instr) (s : State), exec i s = .next (effect params i s)) ∧
  params.gainValid 0 0 0 = true

/-- 00_scope.md R10 (each formula in the order written, one operation at a time): what EST, TGT, PID and MAP
compute over any carrier under any operations of `Num`, rounding ones too. Two things here are the model's choice
and not R10's: where a clamp's lower bound is above its upper one (`ICLAMP_LO` above `ICLAMP_HI`, a negative
`PWM_MAX`), though R10 asks for ordered bounds, `I_NEW` and the duties have the value of its formula (log 18); and an
integer from `truncI` outside Int32 is kept modulo 2^32 in the duty (log 2). -/
def Obligations.FormulasAreEvaluatedInTheWrittenOrder : Prop :=
  ∀ (N : Type) (P : Params N) (s : State.Of N),
    (let t := effect P .est s
     t.lat.raw = P.mul
        (P.div (P.ofInt s.lat.delta.toInt) (P.mul s.cfg.gear s.cfg.encRes))
        (P.div (P.ofInt 60000) (P.ofInt s.cfg.sampleMs.toInt)) ∧
     t.ctl.vel = P.add (P.mul s.cfg.klpf s.ctl.velPrev)
        (P.mul (P.sub (P.ofInt 1) s.cfg.klpf) t.lat.raw)) ∧
    (effect P .tgt s).ctl.target =
      (if s.cfg.reverse then P.sub (P.ofInt 0) s.ports.tgt else s.ports.tgt) ∧
    (let t := effect P .pid s
     let sum := P.add s.ctl.iPrev t.lat.pNew
     t.lat.pNew = P.sub s.ctl.target s.ctl.vel ∧
     t.lat.iNew =
       (if s.cfg.iclampEn then
          if P.lt sum s.cfg.iclampLo then s.cfg.iclampLo
          else if P.lt s.cfg.iclampHi sum then s.cfg.iclampHi else sum
        else sum) ∧
     t.lat.dNew = P.sub t.lat.pNew s.ctl.pPrev ∧
     t.lat.u =
       (if s.cfg.enD then
          P.add (P.add (P.mul s.cfg.kp t.lat.pNew) (P.mul s.cfg.ki t.lat.iNew))
            (P.mul s.cfg.kd t.lat.dNew)
        else P.add (P.mul s.cfg.kp t.lat.pNew) (P.mul s.cfg.ki t.lat.iNew))) ∧
    (s.ports.pwmFail = false →
      let limited (v : N) : N :=
        if P.lt v (P.ofInt 0) then P.ofInt 0
        else if P.lt (P.ofInt s.cfg.pwmMax.toInt) v then P.ofInt s.cfg.pwmMax.toInt else v
      (effect P .map s).duty =
        (if P.ge s.lat.u (P.ofInt 0) then
           { a := BitVec.ofInt 32 (P.trunc (limited s.lat.u)), b := s.cfg.pwmMin }
         else
           { a := s.cfg.pwmMin
             b := BitVec.ofInt 32 (P.trunc (limited (P.sub (P.ofInt 0) s.lat.u))) }))

/-- 10_state.md R55, 00_scope.md R9: after any operation other than INIT (whose checks ask `GAIN_VALID` and compare
`Num`s, `GainRangeDecidesConstruction`), two instantiations over one carrier differ in numbers only: the lifecycle
state, the flags, `PHASE`, `CAUSE`, `CFGDETAIL`, the configuration, `DELTA`, the ports, the events to come and the
count of free values are the same. -/
def Obligations.ParametersChangeNumbersOnlyOutsideInit : Prop :=
  ∀ (N : Type) (P Q : Params N) (i : Instr N) (s : State.Of N), isInitEvent i = false →
    (effect P i s).lifecycle = (effect Q i s).lifecycle ∧
    (effect P i s).flags = (effect Q i s).flags ∧ (effect P i s).phase = (effect Q i s).phase ∧
    (effect P i s).cause = (effect Q i s).cause ∧
    (effect P i s).cfgDetail = (effect Q i s).cfgDetail ∧ (effect P i s).cfg = (effect Q i s).cfg ∧
    (effect P i s).lat.delta = (effect Q i s).lat.delta ∧
    (effect P i s).ports = (effect Q i s).ports ∧
    (effect P i s).arrivals = (effect Q i s).arrivals ∧
    (effect P i s).freeCount = (effect Q i s).freeCount

/-- 46_host_access_and_construction.md R170, R165, 10_state.md R34: gains out of range set GAIN_BAD and reject the
construction, whatever the other cells hold, in any instantiation; gains in range leave the decision to the other
six checks. -/
def Obligations.GainRangeDecidesConstruction : Prop :=
  ∀ (N : Type) (P : Params N) (s : State.Of N), s.lifecycle = .unconf →
    (effect P .init s).cfgDetail.gainBad = !P.gainValid s.cfg.kp s.cfg.ki s.cfg.kd ∧
    (P.gainValid s.cfg.kp s.cfg.ki s.cfg.kd = false →
      effect P .init s =
        { s with
          cfgDetail := validityMask P s.cfg
          cause := some .cfgErr
          flags := { s.flags with cfgErr := true } }) ∧
    (P.gainValid s.cfg.kp s.cfg.ki s.cfg.kd = true →
      ((effect P .init s).lifecycle = .idle ↔
        { validityMask P s.cfg with gainBad := false } = CfgDetail.zero))

/-- 10_state.md R55, R25, R45, R47, R50, 60_exceptions.md R190, R192: the part of the invariant that rests on no law
of `Num` holds after reset and is kept by every step, whatever the carrier, its operations and the gain range. -/
def Obligations.EveryInstantiationKeepsTheControlInvariant : Prop :=
  ∀ (N : Type) (P : Params N),
    ControlInv P (State.zeroed (P.ofInt 0)) ∧
    ∀ s t : State.Of N, ControlInv P s → stepWith P s = .next t → ControlInv P t
end

