-- ==== Sys2Proof/Laws/State.lean ====
section
/-! SUPPORT. One lemma for each field and each named update of State, and the small laws of the sticky
flags, so that no later proof unfolds an update. -/

namespace Sys2Proof.Machine

variable {N : Type}

section SetPhase
variable (s : State.Of N) (n : Phase)
@[simp] theorem setPhase_phase : (s.setPhase n).phase = n := rfl
@[simp] theorem setPhase_lifecycle : (s.setPhase n).lifecycle = s.lifecycle := rfl
@[simp] theorem setPhase_flags : (s.setPhase n).flags = s.flags := rfl
@[simp] theorem setPhase_cause : (s.setPhase n).cause = s.cause := rfl
@[simp] theorem setPhase_cfgDetail : (s.setPhase n).cfgDetail = s.cfgDetail := rfl
@[simp] theorem setPhase_cfg : (s.setPhase n).cfg = s.cfg := rfl
@[simp] theorem setPhase_ctl : (s.setPhase n).ctl = s.ctl := rfl
@[simp] theorem setPhase_duty : (s.setPhase n).duty = s.duty := rfl
@[simp] theorem setPhase_lat : (s.setPhase n).lat = s.lat := rfl
@[simp] theorem setPhase_ports : (s.setPhase n).ports = s.ports := rfl
@[simp] theorem setPhase_pwmExt : (s.setPhase n).pwmExt = s.pwmExt := rfl
@[simp] theorem setPhase_arrivals : (s.setPhase n).arrivals = s.arrivals := rfl
@[simp] theorem setPhase_out : (s.setPhase n).out = s.out := rfl
@[simp] theorem setPhase_portLog : (s.setPhase n).portLog = s.portLog := rfl
@[simp] theorem setPhase_freeCount : (s.setPhase n).freeCount = s.freeCount := rfl
end SetPhase

section LogPort
variable (s : State.Of N) (a : PortAccess N)
@[simp] theorem logPort_phase : (s.logPort a).phase = s.phase := rfl
@[simp] theorem logPort_lifecycle : (s.logPort a).lifecycle = s.lifecycle := rfl
@[simp] theorem logPort_flags : (s.logPort a).flags = s.flags := rfl
@[simp] theorem logPort_cause : (s.logPort a).cause = s.cause := rfl
@[simp] theorem logPort_cfgDetail : (s.logPort a).cfgDetail = s.cfgDetail := rfl
@[simp] theorem logPort_cfg : (s.logPort a).cfg = s.cfg := rfl
@[simp] theorem logPort_ctl : (s.logPort a).ctl = s.ctl := rfl
@[simp] theorem logPort_duty : (s.logPort a).duty = s.duty := rfl
@[simp] theorem logPort_lat : (s.logPort a).lat = s.lat := rfl
@[simp] theorem logPort_ports : (s.logPort a).ports = s.ports := rfl
@[simp] theorem logPort_pwmExt : (s.logPort a).pwmExt = s.pwmExt := rfl
@[simp] theorem logPort_arrivals : (s.logPort a).arrivals = s.arrivals := rfl
@[simp] theorem logPort_out : (s.logPort a).out = s.out := rfl
@[simp] theorem logPort_portLog : (s.logPort a).portLog = s.portLog ++ [a] := rfl
@[simp] theorem logPort_freeCount : (s.logPort a).freeCount = s.freeCount := rfl
end LogPort

section StartEvent
variable (p : TickSample N) (s : State.Of N)
@[simp] theorem startEvent_phase : (startEvent p s).phase = s.phase := rfl
@[simp] theorem startEvent_lifecycle : (startEvent p s).lifecycle = s.lifecycle := rfl
@[simp] theorem startEvent_flags : (startEvent p s).flags = s.flags := rfl
@[simp] theorem startEvent_cause : (startEvent p s).cause = s.cause := rfl
@[simp] theorem startEvent_cfgDetail : (startEvent p s).cfgDetail = s.cfgDetail := rfl
@[simp] theorem startEvent_cfg : (startEvent p s).cfg = s.cfg := rfl
@[simp] theorem startEvent_ctl : (startEvent p s).ctl = s.ctl := rfl
@[simp] theorem startEvent_duty : (startEvent p s).duty = s.duty := rfl
@[simp] theorem startEvent_lat : (startEvent p s).lat = s.lat := rfl
@[simp] theorem startEvent_ports : (startEvent p s).ports = p := rfl
@[simp] theorem startEvent_pwmExt : (startEvent p s).pwmExt = s.pwmExt := rfl
@[simp] theorem startEvent_arrivals : (startEvent p s).arrivals = s.arrivals := rfl
@[simp] theorem startEvent_out : (startEvent p s).out = .none := rfl
@[simp] theorem startEvent_portLog : (startEvent p s).portLog = [] := rfl
@[simp] theorem startEvent_freeCount : (startEvent p s).freeCount = s.freeCount := rfl
end StartEvent

section Raise
variable (e : Exc) (s : State.Of N)
@[simp] theorem raise_cause : (raise e s).cause = some e := by unfold raise; split <;> rfl
@[simp] theorem raise_phase : (raise e s).phase = s.phase := by unfold raise; split <;> rfl
@[simp] theorem raise_cfgDetail : (raise e s).cfgDetail = s.cfgDetail := by
  unfold raise; split <;> rfl
@[simp] theorem raise_cfg : (raise e s).cfg = s.cfg := by unfold raise; split <;> rfl
@[simp] theorem raise_ctl : (raise e s).ctl = s.ctl := by unfold raise; split <;> rfl
@[simp] theorem raise_duty : (raise e s).duty = s.duty := by unfold raise; split <;> rfl
@[simp] theorem raise_lat : (raise e s).lat = s.lat := by unfold raise; split <;> rfl
@[simp] theorem raise_ports : (raise e s).ports = s.ports := by unfold raise; split <;> rfl
@[simp] theorem raise_pwmExt : (raise e s).pwmExt = s.pwmExt := by unfold raise; split <;> rfl
@[simp] theorem raise_arrivals : (raise e s).arrivals = s.arrivals := by
  unfold raise; split <;> rfl
@[simp] theorem raise_out : (raise e s).out = s.out := by unfold raise; split <;> rfl
@[simp] theorem raise_portLog : (raise e s).portLog = s.portLog := by unfold raise; split <;> rfl
@[simp] theorem raise_freeCount : (raise e s).freeCount = s.freeCount := by
  unfold raise; split <;> rfl
@[simp] theorem raise_flags : (raise e s).flags = s.flags.set e := by
  cases e <;> rfl
@[simp] theorem raise_lifecycle :
    (raise e s).lifecycle = if e.fatal then .fault else s.lifecycle := by
  cases e <;> rfl
end Raise

section Reset
variable (P : Params N) (s : State.Of N)
@[simp] theorem resetBlock_phase : (resetBlock P s).phase = 0 := rfl
@[simp] theorem resetBlock_lifecycle : (resetBlock P s).lifecycle = .unconf := rfl
@[simp] theorem resetBlock_cause : (resetBlock P s).cause = none := rfl
@[simp] theorem resetBlock_flags : (resetBlock P s).flags = ⟨false, false, false, false⟩ := rfl
@[simp] theorem resetBlock_cfgDetail : (resetBlock P s).cfgDetail = CfgDetail.zero := rfl
@[simp] theorem resetBlock_cfg : (resetBlock P s).cfg = MotorConfig.zero (P.ofInt 0) := rfl
@[simp] theorem resetBlock_ctl : (resetBlock P s).ctl = ControllerState.zero (P.ofInt 0) := rfl
@[simp] theorem resetBlock_duty : (resetBlock P s).duty = ⟨0, 0⟩ := rfl
@[simp] theorem resetBlock_lat : (resetBlock P s).lat = Latches.zero (P.ofInt 0) := rfl
@[simp] theorem resetBlock_ports : (resetBlock P s).ports = s.ports := rfl
@[simp] theorem resetBlock_pwmExt : (resetBlock P s).pwmExt = s.pwmExt := rfl
@[simp] theorem resetBlock_arrivals : (resetBlock P s).arrivals = s.arrivals := rfl
@[simp] theorem resetBlock_out : (resetBlock P s).out = .none := rfl
@[simp] theorem resetBlock_portLog : (resetBlock P s).portLog = [] := rfl
@[simp] theorem resetBlock_freeCount : (resetBlock P s).freeCount = s.freeCount := rfl

/-- The reset values of the exact instantiation are zeros. -/
theorem resetBlock_params (s : State) :
    resetBlock params s =
      { State.reset with
        ports := s.ports, pwmExt := s.pwmExt, arrivals := s.arrivals, freeCount := s.freeCount } := rfl
end Reset

/-- Setting a flag clears none. -/
theorem StickyFlags.set_keeps (f : StickyFlags) (e e' : Exc) (h : f.has e' = true) :
    (f.set e).has e' = true := by
  cases e <;> cases e' <;> simp_all [StickyFlags.set, StickyFlags.has]

/-- A recorded exception finds its own flag set. -/
theorem StickyFlags.set_has (f : StickyFlags) (e : Exc) (h : e.fatal = false) :
    (f.set e).has e = true := by
  cases e <;> simp_all [StickyFlags.set, StickyFlags.has, Exc.fatal]

end Sys2Proof.Machine
end

