-- ==== Sys2Proof/Laws/Arith.lean ====
section
/-! SUPPORT. The operations of `Num` in the reference instantiation are those of the rationals
(00_scope.md R9, R10), and what the clamp and the truncation give. -/

namespace Sys2Proof.Machine

@[simp] theorem ofInt_zero : ofInt 0 = 0 := by simp [ofInt]
@[simp] theorem ofInt_one : ofInt 1 = 1 := by simp [ofInt]

@[simp] theorem params_ofInt (i : Int) : params.ofInt i = (i : Rat) := rfl
@[simp] theorem params_add (a b : Num) : params.add a b = a + b := rfl
@[simp] theorem params_sub (a b : Num) : params.sub a b = a - b := rfl
@[simp] theorem params_mul (a b : Num) : params.mul a b = a * b := rfl
@[simp] theorem params_lt (a b : Num) : params.lt a b = decide (a < b) := rfl
@[simp] theorem params_le (a b : Num) : params.le a b = decide (a ≤ b) := rfl
@[simp] theorem params_ge (a b : Num) : params.ge a b = decide (b ≤ a) := rfl
@[simp] theorem params_eq (a b : Num) : params.eq a b = decide (a = b) := rfl
@[simp] theorem params_trunc (a : Num) : params.trunc a = truncI a := rfl
@[simp] theorem params_gainValid (kp ki kd : Num) :
    params.gainValid kp ki kd = gainValid kp ki kd := rfl
@[simp] theorem negN_eq (a : Num) : negN params a = -a := by simp [negN]

/-- The reset gains are in range (70_reset_and_hazards.md R211). -/
@[simp] theorem gainValid_zero : gainValid 0 0 0 = true := by simp [gainValid, eqN]

/-- The quotient by a divisor that is not zero. -/
theorem params_div (a b : Num) (h : b ≠ 0) : params.div a b = a / b := by
  change divN a b = _
  simp [divN, h]

/-- In an ordered range the clamp is the usual one. -/
theorem clampN_eq (v lo hi : Num) (h : lo ≤ hi) : clampN params v lo hi = max lo (min v hi) := by
  unfold clampN
  simp only [params_lt, decide_eq_true_eq]
  split
  · rename_i hv
    rw [min_eq_left (le_of_lt (lt_of_lt_of_le hv h)), max_eq_left (le_of_lt hv)]
  · split
    · rename_i hv hh
      rw [min_eq_right (le_of_lt hh), max_eq_right h]
    · rename_i hv hh
      rw [min_eq_left (not_lt.mp hh), max_eq_right (not_lt.mp hv)]

/-- The clamp lands in its range. -/
theorem clampN_mem (v lo hi : Num) (h : lo ≤ hi) :
    lo ≤ clampN params v lo hi ∧ clampN params v lo hi ≤ hi := by
  rw [clampN_eq v lo hi h]
  exact ⟨le_max_left _ _, max_le h (min_le_right _ _)⟩

/-- Core's floor of a rational is Mathlib's. -/
theorem truncI_nonneg (v : Num) (h : 0 ≤ v) : truncI v = ⌊v⌋ := by
  simp [truncI, geN, h]
  rfl

/-- A signed value that fits 32 bits survives the cell. -/
theorem toInt_ofInt32 (k : Int) (h0 : 0 ≤ k) (h1 : k ≤ 2147483647) :
    (BitVec.ofInt 32 k).toInt = k := by
  rw [BitVec.toInt_ofInt]
  have : k.bmod (2 ^ 32) = k := by
    apply Int.bmod_eq_of_le <;> omega
  simpa using this

/-- An `Int32` is at most 2147483647. -/
theorem toInt_le_max (i : I32) : i.toInt ≤ 2147483647 := by
  have := BitVec.toInt_lt (x := i)
  omega

/-- Sign extension of the count keeps its value (41_pulse_counter.md R102). -/
theorem signExtend_count (c : I16) : (c.signExtend 32).toInt = c.toInt :=
  BitVec.toInt_signExtend_of_le (by decide)

end Sys2Proof.Machine
end

