-- ==== Sys2Proof/Laws/Decode.lean ====
section
/-! SUPPORT. What the decoders can answer (30_encoding.md R85 to R89). -/

namespace Sys2Proof

variable {N : Type}

@[simp] theorem Reg.ofNumber_number (r : Reg) : Reg.ofNumber r.number = some r := by
  cases r <;> rfl

/-- A number that names a cell is that cell's number. -/
theorem Reg.number_of_ofNumber (n : RegNum) (r : Reg) (h : Reg.ofNumber n = some r) :
    r.number = n := by
  revert r
  revert n
  decide

/-- A number no cell has names none. -/
theorem Reg.ofNumber_none (n : RegNum) (h : ∀ r : Reg, r.number ≠ n) : Reg.ofNumber n = none := by
  cases hr : Reg.ofNumber n with
  | none => rfl
  | some r => exact absurd (Reg.number_of_ofNumber n r hr) (h r)

/-- The bus carries reads and writes only. -/
theorem decodeBus_cases (h : Byte) (p : Option (Payload N)) (i : Instr N) (hd : decodeBus h p = .ok i) :
    (i = .rd (h.extractLsb' 0 6) ∧ p = none) ∨ (∃ v, i = .wr (h.extractLsb' 0 6) v ∧ p = some v) := by
  unfold decodeBus at hd
  split at hd
  · cases hd
  · split at hd
    · cases hd; exact .inl ⟨rfl, rfl⟩
    · cases hd
    · rename_i v _; cases hd; exact .inr ⟨v, rfl, rfl⟩
    · cases hd

/-- A legal command word is 0, 1 or 2. -/
theorem decodeCmd_small (w : I32) (h : 2 < w.toNat) :
    decode (.cmd w : Wire N) = .error .highBits ∨ decode (.cmd w : Wire N) = .error .reservedOpcode ∨
      decode (.cmd w : Wire N) = .error .microOnCmd := by
  by_cases hw : w.toNat < 16
  · have hk : ∀ k : Fin 16, 2 < k.val →
        decode (.cmd (BitVec.ofNat 32 k.val) : Wire N) = .error .highBits ∨
        decode (.cmd (BitVec.ofNat 32 k.val) : Wire N) = .error .reservedOpcode ∨
        decode (.cmd (BitVec.ofNat 32 k.val) : Wire N) = .error .microOnCmd := by
      intro k hk
      fin_cases k <;> first
        | exact absurd hk (by decide)
        | exact .inr (.inl rfl)
        | exact .inr (.inr rfl)
    have := hk ⟨w.toNat, hw⟩ h
    simpa using this
  · left
    have hx : w.extractLsb' 4 28 ≠ 0 := by
      intro hz
      have := congrArg BitVec.toNat hz
      simp [BitVec.extractLsb'_toNat, Nat.shiftRight_eq_div_pow] at this
      have := w.isLt
      omega
    have hd : (decodeWord w : Except DecodeError (Instr N)) = .error .highBits := if_pos hx
    change decodeCmd w = _
    unfold decodeCmd
    rw [hd]

/-- Every `PHASE` of the table fetches its step. -/
theorem fetchMicro_table :
    (fetchMicro 1 : Option (Instr N)) = some .rdrst ∧ (fetchMicro 2 : Option (Instr N)) = some .est ∧
    (fetchMicro 3 : Option (Instr N)) = some .tgt ∧ (fetchMicro 4 : Option (Instr N)) = some .pid ∧
    (fetchMicro 5 : Option (Instr N)) = some .map ∧ (fetchMicro 6 : Option (Instr N)) = some .commit :=
  ⟨rfl, rfl, rfl, rfl, rfl, rfl⟩

end Sys2Proof
end

