-- ==== Sys2Proof/Laws/Cycle.lean ====
section
/-! SUPPORT. What each micro-operation is as one update, and what a whole cycle is: the six steps in
order, or the two ways it is cut short (45_loop_driver.md R146, R153). -/

namespace Sys2Proof.Machine

variable {N : Type}

/-! ### The micro-operations as one update each -/

theorem rdrst_ok (s : State.Of N) (h : s.ports.cntFail = false) :
    rdrst s = { s with
      lat := { s.lat with delta := s.ports.cnt.signExtend 32 }
      ports := { s.ports with cnt := 0 }
      portLog := s.portLog ++ [.cntRead s.ports.cnt, .cntClear]
      phase := 2 } := by
  simp [rdrst, h, cntRead, cntClear, State.Of.logPort, State.Of.setPhase]

theorem rdrst_fault (s : State.Of N) (h : s.ports.cntFail = true) :
    rdrst s = { s with cause := some .cntFault, lifecycle := .fault } := by
  simp [rdrst, h, raise, Exc.fatal]

theorem est_eq (P : Params N) (s : State.Of N) :
    est P s = { s with
      lat := { s.lat with raw := rawSpeed P s.cfg s.lat.delta }
      ctl := { s.ctl with
        vel := filtered P s.cfg.klpf s.ctl.velPrev (rawSpeed P s.cfg s.lat.delta) }
      phase := 3 } := rfl

theorem tgt_eq (P : Params N) (s : State.Of N) :
    tgt P s = { s with
      ctl := { s.ctl with target := if s.cfg.reverse then negN P s.ports.tgt else s.ports.tgt }
      portLog := s.portLog ++ [.targetSample s.ports.tgt]
      phase := 4 } := rfl

theorem pid_eq (P : Params N) (s : State.Of N) :
    pid P s = { s with
      lat := { s.lat with
        pNew := P.sub s.ctl.target s.ctl.vel
        iNew := integral P s.cfg s.ctl.iPrev (P.sub s.ctl.target s.ctl.vel)
        dNew := P.sub (P.sub s.ctl.target s.ctl.vel) s.ctl.pPrev
        u := controlOutput P s.cfg (P.sub s.ctl.target s.ctl.vel)
          (integral P s.cfg s.ctl.iPrev (P.sub s.ctl.target s.ctl.vel))
          (P.sub (P.sub s.ctl.target s.ctl.vel) s.ctl.pPrev) }
      phase := 5 } := rfl

theorem map_ok (P : Params N) (s : State.Of N) (h : s.ports.pwmFail = false) :
    map P s = { s with
      duty := pwmCommand P s.cfg s.lat.u
      pwmExt := pwmCommand P s.cfg s.lat.u
      portLog := s.portLog ++
        [.pwmWrite (pwmCommand P s.cfg s.lat.u).a (pwmCommand P s.cfg s.lat.u).b]
      phase := 6 } := by
  simp [map, h, pwmWrite, State.Of.logPort, State.Of.setPhase]

theorem map_fault (P : Params N) (s : State.Of N) (h : s.ports.pwmFail = true) :
    map P s = { pwmWriteFailed s with cause := some .pwmFault, lifecycle := .fault } := by
  simp [map, h, raise, Exc.fatal]

theorem commit_eq (s : State.Of N) :
    commit s = { s with
      ctl := { s.ctl with velPrev := s.ctl.vel, pPrev := s.lat.pNew, iPrev := s.lat.iNew }
      phase := 0 } := rfl

/-! ### The loop -/

theorem cycleLoop_done (P : Params N) (n : Nat) (s : State.Of N) (h : s.phase = 0 ∨ s.lifecycle = .fault) :
    cycleLoop P n s = s := by
  cases n with
  | zero => rfl
  | succ n =>
    unfold cycleLoop
    rw [if_pos h]

theorem cycleLoop_step (P : Params N) (n : Nat) (s : State.Of N) (i : Instr N) (h0 : s.phase ≠ 0)
    (h1 : s.lifecycle ≠ .fault) (hf : fetchMicro s.phase = some i) :
    cycleLoop P (n + 1) s = cycleLoop P n (microOp P i s) := by
  conv => lhs; unfold cycleLoop
  rw [if_neg (not_or.mpr ⟨h0, h1⟩), hf]

/-- A cycle with no fault reported is the six steps in order (R146). -/
theorem cycle_complete (P : Params N) (s : State.Of N) (hc : s.ports.cntFail = false) (hp : s.ports.pwmFail = false) :
    cycleLoop P 6 { s with lifecycle := .running, phase := 1 } =
      commit (map P (pid P (tgt P (est P (rdrst { s with lifecycle := .running, phase := 1 }))))) := by
  obtain ⟨f1, f2, f3, f4, f5, f6⟩ := fetchMicro_table
  rw [cycleLoop_step P 5 _ .rdrst (by simp) (by simp) (by simpa using f1)]
  simp only [microOp]
  rw [rdrst_ok _ (by simpa using hc)]
  rw [cycleLoop_step P 4 _ .est (by simp) (by simp) (by simpa using f2)]
  simp only [microOp]
  rw [est_eq]
  rw [cycleLoop_step P 3 _ .tgt (by simp) (by simp) (by simpa using f3)]
  simp only [microOp]
  rw [tgt_eq]
  rw [cycleLoop_step P 2 _ .pid (by simp) (by simp) (by simpa using f4)]
  simp only [microOp]
  rw [pid_eq]
  rw [cycleLoop_step P 1 _ .map (by simp) (by simp) (by simpa using f5)]
  simp only [microOp]
  rw [map_ok P _ (by simpa using hp)]
  rw [cycleLoop_step P 0 _ .commit (by simp) (by simp) (by simpa using f6)]
  rfl

/-- A counter fault leaves the loop at step 1 (R153). -/
theorem cycle_cntFault (P : Params N) (s : State.Of N) (hc : s.ports.cntFail = true) :
    cycleLoop P 6 { s with lifecycle := .running, phase := 1 } =
      { s with cause := some .cntFault, lifecycle := .fault, phase := 1 } := by
  rw [cycleLoop_step P 5 _ .rdrst (by simp) (by simp) (by simpa using fetchMicro_table.1)]
  simp only [microOp]
  rw [rdrst_fault _ (by simpa using hc), cycleLoop_done P _ _ (by simp)]

/-- A PWM fault leaves the loop at step 5 (R153). -/
theorem cycle_pwmFault (P : Params N) (s : State.Of N) (hc : s.ports.cntFail = false) (hp : s.ports.pwmFail = true) :
    cycleLoop P 6 { s with lifecycle := .running, phase := 1 } =
      map P (pid P (tgt P (est P (rdrst { s with lifecycle := .running, phase := 1 })))) := by
  obtain ⟨f1, f2, f3, f4, f5, -⟩ := fetchMicro_table
  rw [cycleLoop_step P 5 _ .rdrst (by simp) (by simp) (by simpa using f1)]
  simp only [microOp]
  rw [rdrst_ok _ (by simpa using hc)]
  rw [cycleLoop_step P 4 _ .est (by simp) (by simp) (by simpa using f2)]
  simp only [microOp]
  rw [est_eq]
  rw [cycleLoop_step P 3 _ .tgt (by simp) (by simp) (by simpa using f3)]
  simp only [microOp]
  rw [tgt_eq]
  rw [cycleLoop_step P 2 _ .pid (by simp) (by simp) (by simpa using f4)]
  simp only [microOp]
  rw [pid_eq]
  rw [cycleLoop_step P 1 _ .map (by simp) (by simp) (by simpa using f5)]
  simp only [microOp]
  rw [map_fault P _ (by simpa using hp), cycleLoop_done P _ _ (by simp)]

/-- The five steps up to the control output as one update, for a count that is read. -/
theorem pid_of_rdrst (P : Params N) (s : State.Of N) (hc : s.ports.cntFail = false) :
    ∃ raw vel target p i d u : N,
      pid P (tgt P (est P (rdrst { s with lifecycle := .running, phase := 1 }))) = { s with
        lifecycle := .running
        phase := 5
        lat := { delta := s.ports.cnt.signExtend 32, raw := raw, pNew := p, iNew := i, dNew := d
                 u := u }
        ctl := { s.ctl with vel := vel, target := target }
        ports := { s.ports with cnt := 0 }
        portLog := s.portLog ++ [.cntRead s.ports.cnt, .cntClear, .targetSample s.ports.tgt] } ∧
      raw = rawSpeed P s.cfg (s.ports.cnt.signExtend 32) ∧
      vel = filtered P s.cfg.klpf s.ctl.velPrev raw ∧
      target = (if s.cfg.reverse then negN P s.ports.tgt else s.ports.tgt) ∧
      p = P.sub target vel ∧ i = integral P s.cfg s.ctl.iPrev p ∧ d = P.sub p s.ctl.pPrev ∧
      u = controlOutput P s.cfg p i d := by
  refine ⟨_, _, _, _, _, _, _, ?_, rfl, rfl, rfl, rfl, rfl, rfl, rfl⟩
  rw [rdrst_ok _ (by simpa using hc)]
  dsimp only
  rw [est_eq]
  dsimp only
  rw [tgt_eq]
  dsimp only
  rw [pid_eq]
  dsimp only
  simp only [List.append_assoc, List.cons_append, List.nil_append]

/-- The speed formula where its divisors are not zero (42_velocity_estimator.md R111). -/
theorem rawSpeed_eq (c : MotorConfig Num) (d : I32) (hd : c.gear * c.encRes ≠ 0)
    (hs : c.sampleMs.toInt ≠ 0) :
    rawSpeed params c d = ((d.toInt : Rat) / (c.gear * c.encRes)) * (60000 / (c.sampleMs.toInt : Rat)) := by
  have hs' : numOfI32 params c.sampleMs ≠ 0 := by simpa [numOfI32] using hs
  simp only [rawSpeed, params_mul]
  rw [params_div _ _ hd, params_div _ _ hs']
  simp [numOfI32, Config.rateMsPerMin]

/-- The filter over the rationals (42_velocity_estimator.md R112). -/
@[simp] theorem filtered_eq (k prev raw : Num) :
    filtered params k prev raw = k * prev + (1 - k) * raw := by
  simp [filtered]

/-- The integral with the clamp off (43_target_and_pid.md R124). -/
theorem integral_off (c : MotorConfig Num) (i p : Num) (h : c.iclampEn = false) :
    integral params c i p = i + p := by
  simp [integral, h]

/-- The integral with the clamp on and its range ordered (43_target_and_pid.md R125). -/
theorem integral_on (c : MotorConfig Num) (i p : Num) (h : c.iclampEn = true)
    (hr : c.iclampLo ≤ c.iclampHi) :
    integral params c i p = max c.iclampLo (min (i + p) c.iclampHi) := by
  simp [integral, h, clampN_eq _ _ _ hr]

/-- The control output over the rationals (43_target_and_pid.md R127). -/
theorem controlOutput_eq (c : MotorConfig Num) (p i d : Num) :
    controlOutput params c p i d = c.kp * p + c.ki * i + (if c.enD then c.kd * d else 0) := by
  cases h : c.enD <;> simp [controlOutput, h]

/-- A duty of a magnitude that is not negative, with a bound that is not (44_pwm_mapper.md R138,
R139). -/
theorem dutyOf_eq (m : I32) (v : Num) (hm : 0 ≤ m.toInt) (hv : 0 ≤ v) :
    dutyOf params m v = BitVec.ofInt 32 ⌊min v (m.toInt : Rat)⌋ := by
  have hm' : (0 : Rat) ≤ (m.toInt : Rat) := by exact_mod_cast hm
  have hmin : 0 ≤ min v (m.toInt : Rat) := le_min hv hm'
  have hz : params.ofInt 0 = 0 := by simp
  simp only [dutyOf, numOfI32, hz, params_ofInt]
  rw [clampN_eq _ _ _ hm', max_eq_right hmin, params_trunc, truncI_nonneg _ hmin]

/-- The duty as an integer: the floor, in [0, bound]. -/
theorem dutyOf_toInt (m : I32) (v : Num) (hm : 0 ≤ m.toInt) (hv : 0 ≤ v) :
    (dutyOf params m v).toInt = ⌊min v (m.toInt : Rat)⌋ ∧ 0 ≤ (dutyOf params m v).toInt ∧
      (dutyOf params m v).toInt ≤ m.toInt := by
  have hm' : (0 : Rat) ≤ (m.toInt : Rat) := by exact_mod_cast hm
  have h0 : 0 ≤ ⌊min v (m.toInt : Rat)⌋ := Int.floor_nonneg.mpr (le_min hv hm')
  have h1 : ⌊min v (m.toInt : Rat)⌋ ≤ m.toInt := by
    have := Int.floor_mono (min_le_right v (m.toInt : Rat))
    simpa using this
  have hk := toInt_ofInt32 _ h0 (le_trans h1 (toInt_le_max m))
  rw [dutyOf_eq m v hm hv, hk]
  exact ⟨rfl, h0, h1⟩

end Sys2Proof.Machine
end

