-- ==== Sys2Proof/Laws/Host.lean ====
section
/-! SUPPORT. Taking an exception, the host's operations as cases, and what every operation keeps
(46_host_access_and_construction.md R160 to R165, 60_exceptions.md R190). -/

namespace Sys2Proof.Machine

variable {N : Type}

/-- Every operation answers a next state: the model has no instruction that stops. -/
theorem exec_total (i : Instr) (s : State) : ∃ t, exec i s = .next t := by
  cases i <;> exact ⟨_, rfl⟩

/-- `exec` is the effect of the operation with the parameters of this block (10_state.md R55). -/
theorem exec_eq_effect (i : Instr) (s : State) : exec i s = .next (effect params i s) := by
  cases i <;> rfl

/-- A recorded exception as one update (60_exceptions.md R190). -/
theorem raise_recorded (e : Exc) (s : State.Of N) (h : e.fatal = false) :
    raise e s = { s with cause := some e, flags := s.flags.set e } := by
  simp [raise, h]

/-- A fatal exception as one update (60_exceptions.md R190). -/
theorem raise_fatal (e : Exc) (s : State.Of N) (h : e.fatal = true) :
    raise e s = { s with cause := some e, lifecycle := .fault } := by
  simp [raise, h]

/-- A recorded exception leaves the lifecycle state. -/
theorem raise_recorded_lifecycle (e : Exc) (s : State.Of N) (h : e.fatal = false) :
    (raise e s).lifecycle = s.lifecycle := by
  simp [h]

/-- What a cycle computes up to step 4 from the state before it (45_loop_driver.md R146). -/
structure CycleValues (P : Params N) (s : State.Of N) where
  raw : N
  vel : N
  target : N
  p : N
  i : N
  d : N
  u : N
  raw_eq : raw = rawSpeed P s.cfg (s.ports.cnt.signExtend 32)
  vel_eq : vel = filtered P s.cfg.klpf s.ctl.velPrev raw
  target_eq : target = if s.cfg.reverse then negN P s.ports.tgt else s.ports.tgt
  p_eq : p = P.sub target vel
  i_eq : i = integral P s.cfg s.ctl.iPrev p
  d_eq : d = P.sub p s.ctl.pPrev
  u_eq : u = controlOutput P s.cfg p i d

/-- The latches of a cycle. -/
def CycleValues.latches {P : Params N} {s : State.Of N} (v : CycleValues P s) : Latches N :=
  { delta := s.ports.cnt.signExtend 32, raw := v.raw, pNew := v.p, iNew := v.i, dNew := v.d
    u := v.u }

/-- A cycle that completes, as one update (45_loop_driver.md R146). -/
theorem tick_complete (P : Params N) (s : State.Of N) (ha : s.accepts = true) (hc : s.ports.cntFail = false)
    (hp : s.ports.pwmFail = false) :
    ∃ v : CycleValues P s, tick P s = { s with
      lifecycle := .running
      phase := 0
      lat := v.latches
      ctl := { vel := v.vel, velPrev := v.vel, pPrev := v.p, iPrev := v.i, target := v.target }
      duty := pwmCommand P s.cfg v.u
      pwmExt := pwmCommand P s.cfg v.u
      ports := { s.ports with cnt := 0 }
      portLog := s.portLog ++ [.cntRead s.ports.cnt, .cntClear, .targetSample s.ports.tgt,
        .pwmWrite (pwmCommand P s.cfg v.u).a (pwmCommand P s.cfg v.u).b]
      out := .tick (.ok (pwmCommand P s.cfg v.u).a (pwmCommand P s.cfg v.u).b) } := by
  have run : tick P s = runCycle P s := by
    cases hl : s.lifecycle <;> simp_all [State.Of.accepts, tick]
  obtain ⟨raw, vel, target, p, i, d, u, h, h1, h2, h3, h4, h5, h6, h7⟩ := pid_of_rdrst P s hc
  refine ⟨⟨raw, vel, target, p, i, d, u, h1, h2, h3, h4, h5, h6, h7⟩, ?_⟩
  rw [run, runCycle, cycle_complete P s hc hp, h, map_ok P _ (by simpa using hp)]
  dsimp only
  rw [commit_eq]
  dsimp only [cycleResult, CycleValues.latches]
  simp only [List.append_assoc, List.cons_append, List.nil_append]

/-- A cycle a PWM fault cuts short, as one update (60_exceptions.md R192). -/
theorem tick_pwmFault (P : Params N) (s : State.Of N) (ha : s.accepts = true) (hc : s.ports.cntFail = false)
    (hp : s.ports.pwmFail = true) :
    ∃ v : CycleValues P s, tick P s = { s with
      lifecycle := .fault
      phase := 5
      cause := some .pwmFault
      lat := v.latches
      ctl := { s.ctl with vel := v.vel, target := v.target }
      pwmExt := (pwmWriteFailed s).pwmExt
      freeCount := (pwmWriteFailed s).freeCount
      ports := { s.ports with cnt := 0 }
      portLog := s.portLog ++ [.cntRead s.ports.cnt, .cntClear, .targetSample s.ports.tgt]
      out := .tick (.fault .pwmFault) } := by
  have run : tick P s = runCycle P s := by
    cases hl : s.lifecycle <;> simp_all [State.Of.accepts, tick]
  obtain ⟨raw, vel, target, p, i, d, u, h, h1, h2, h3, h4, h5, h6, h7⟩ := pid_of_rdrst P s hc
  refine ⟨⟨raw, vel, target, p, i, d, u, h1, h2, h3, h4, h5, h6, h7⟩, ?_⟩
  rw [run, runCycle, cycle_pwmFault P s hc hp, h, map_fault P _ (by simpa using hp)]
  rfl

/-- A cycle a counter fault cuts short, as one update (60_exceptions.md R192). -/
theorem tick_cntFault (P : Params N) (s : State.Of N) (ha : s.accepts = true) (hc : s.ports.cntFail = true) :
    tick P s = { s with
      cause := some .cntFault, lifecycle := .fault, phase := 1
      out := .tick (.fault .cntFault) } := by
  have run : tick P s = runCycle P s := by
    cases hl : s.lifecycle <;> simp_all [State.Of.accepts, tick]
  rw [run, runCycle, cycle_cntFault P s hc]
  rfl

/-- Everything a `TICK` can do (45_loop_driver.md R145, R151, R153). -/
theorem tick_cases (P : Params N) (s : State.Of N) :
    (s.lifecycle = .unconf ∧ tick P s = { raise .illCmd s with out := .tick (.refused .illCmd) }) ∨
    (s.lifecycle = .fault ∧ tick P s = { s with out := .tick .dropped }) ∨
    (s.accepts = true ∧ s.ports.cntFail = true) ∨
    (s.accepts = true ∧ s.ports.cntFail = false ∧ s.ports.pwmFail = true) ∨
    (s.accepts = true ∧ s.ports.cntFail = false ∧ s.ports.pwmFail = false) := by
  cases hl : s.lifecycle with
  | unconf => left; simp [tick, hl]
  | fault => right; left; simp [tick, hl, dropTick]
  | idle | running =>
    right; right
    cases hc : s.ports.cntFail <;> cases hp : s.ports.pwmFail <;> simp [State.Of.accepts, hl]

/-- Everything an `INIT` can do (46_host_access_and_construction.md R165, R172). -/
theorem init_cases (P : Params N) (s : State.Of N) :
    (s.lifecycle = .fault ∧ init P s = s) ∨
    (s.accepts = true ∧ init P s = raise .illCmd s) ∨
    (s.lifecycle = .unconf ∧ (validityMask P s.cfg).any = true ∧
      init P s = raise .cfgErr { s with cfgDetail := validityMask P s.cfg }) ∨
    (s.lifecycle = .unconf ∧ (validityMask P s.cfg).any = false ∧
      init P s = { s with
        cfgDetail := validityMask P s.cfg, ctl := ControllerState.zero (P.ofInt 0), lat := Latches.zero (P.ofInt 0)
        lifecycle := .idle }) := by
  cases hl : s.lifecycle with
  | fault => left; simp [init, hl]
  | idle | running => right; left; simp [init, hl, State.Of.accepts]
  | unconf =>
    right; right
    cases hv : (validityMask P s.cfg).any with
    | true => left; simp [init, hl, hv]
    | false => right; simp [init, hl, hv, construct]

/-- A word above 2 on `CMD` is IllCmd (30_encoding.md R86). -/
theorem executeCommand_illegal (P : Params N) (w : I32) (s : State.Of N) (h : 2 < w.toNat) :
    executeCommand P w s = raise .illCmd s := by
  unfold executeCommand
  rcases decodeCmd_small w h with hd | hd | hd <;> rw [hd]

/-- The three legal words on `CMD` (46_host_access_and_construction.md R163). -/
theorem executeCommand_legal (P : Params N) (s : State.Of N) :
    executeCommand P 0 s = s ∧ executeCommand P 1 s = init P s ∧ executeCommand P 2 s = tick P s :=
  ⟨rfl, rfl, rfl⟩

/-- Everything a write can do (46_host_access_and_construction.md R161, R162). -/
theorem wr_cases (P : Params N) (n : RegNum) (v : Payload N) (s : State.Of N) :
    (s.lifecycle = .fault ∧ (wr P n v s = s ∨
      (n = Reg.cmd.number ∧ v = .int 2 ∧ wr P n v s = { s with out := .tick .dropped }))) ∨
    (s.lifecycle ≠ .fault ∧ Reg.ofNumber n = none ∧ wr P n v s = raise .illAddr s) ∨
    (s.lifecycle ≠ .fault ∧ (n ≠ Reg.cmd.number ∨ ∃ x, v = .num x) ∧ wr P n v s = raise .wrDenied s) ∨
    (s.lifecycle ≠ .fault ∧ n = Reg.cmd.number ∧ v = .int 0 ∧ wr P n v s = s) ∨
    (s.lifecycle ≠ .fault ∧ n = Reg.cmd.number ∧ v = .int 1 ∧ wr P n v s = init P s) ∨
    (s.lifecycle ≠ .fault ∧ n = Reg.cmd.number ∧ v = .int 2 ∧ wr P n v s = tick P s) ∨
    (s.lifecycle ≠ .fault ∧ n = Reg.cmd.number ∧ (∃ w : I32, v = .int w ∧ 2 < w.toNat) ∧
      wr P n v s = raise .illCmd s) ∨
    (s.lifecycle = .unconf ∧ ∃ r : Reg, n = r.number ∧ r.bank = .motorConfig ∧
      v.cellType = r.cellType ∧ wr P n v s = { s with cfg := storeConfig r v s.cfg }) := by
  by_cases hf : s.lifecycle = .fault
  · left
    refine ⟨hf, ?_⟩
    by_cases hd : Reg.ofNumber n = some .cmd ∧ v = .int 2
    · right
      refine ⟨(Reg.number_of_ofNumber _ _ hd.1).symm, hd.2, ?_⟩
      simp [wr, hf, dropWrite, hd, dropTick]
    · left
      simp only [wr, if_pos hf, dropWrite]
      cases v with
      | num _ => rfl
      | int w => exact if_neg (fun h => hd ⟨h.1, congrArg _ h.2⟩)
  · right
    have hw : wr P n v s = writeLive P n v s := by simp only [wr, if_neg hf]
    rw [hw]
    unfold writeLive
    cases hn : Reg.ofNumber n with
    | none => left; exact ⟨hf, rfl, rfl⟩
    | some r =>
      have hnum := (Reg.number_of_ofNumber _ _ hn).symm
      right
      simp only
      by_cases hr : r = .cmd
      · subst hr
        rw [if_pos rfl]
        cases v with
        | num x => left; exact ⟨hf, .inr ⟨x, rfl⟩, rfl⟩
        | int w =>
          right
          by_cases hw : 2 < w.toNat
          · right; right; right; left
            exact ⟨hf, hnum, ⟨w, rfl, hw⟩, executeCommand_illegal P w s hw⟩
          · have : w = 0 ∨ w = 1 ∨ w = 2 := by bv_omega
            rcases this with rfl | rfl | rfl
            · left; exact ⟨hf, hnum, rfl, rfl⟩
            · right; left; exact ⟨hf, hnum, rfl, rfl⟩
            · right; right; left; exact ⟨hf, hnum, rfl, rfl⟩
      · have hne : n ≠ Reg.cmd.number := fun he => by
          rw [he, Reg.ofNumber_number] at hn
          exact hr (Option.some.inj hn).symm
        rw [if_neg hr]
        by_cases hb : r.bank ≠ .motorConfig
        · left; rw [if_pos hb]; exact ⟨hf, .inl hne, rfl⟩
        · rw [if_neg hb]
          by_cases hu : s.lifecycle ≠ .unconf
          · left; rw [if_pos hu]; exact ⟨hf, .inl hne, rfl⟩
          · rw [if_neg hu]
            by_cases ht : v.cellType ≠ r.cellType
            · left; rw [if_pos ht]; exact ⟨hf, .inl hne, rfl⟩
            · rw [if_neg ht]
              right; right; right; right; right
              exact ⟨not_not.mp hu, r, hnum, not_not.mp hb, not_not.mp ht, rfl⟩

/-- Everything a read can do (46_host_access_and_construction.md R160). -/
theorem rd_cases (n : RegNum) (s : State.Of N) :
    (∃ r : Reg, n = r.number ∧ rd n s = { s with out := .rdata (readCell r s) }) ∨
    (Reg.ofNumber n = none ∧ s.lifecycle = .fault ∧ rd n s = { s with out := .rdata (.int 0) }) ∨
    (Reg.ofNumber n = none ∧ s.lifecycle ≠ .fault ∧
      rd n s = raise .illAddr { s with out := .rdata (.int 0) }) := by
  cases hn : Reg.ofNumber n with
  | some r => left; exact ⟨r, (Reg.number_of_ofNumber _ _ hn).symm, by simp [rd, hn]⟩
  | none =>
    right
    by_cases hf : s.lifecycle = .fault
    · left; simp [rd, hn, hf]
    · right; simp [rd, hn, hf]

/-- A store keeps every cell but the one it names (46_host_access_and_construction.md R161). -/
theorem readCell_storeConfig_other (r r' : Reg) (v : Payload N) (s : State.Of N) (h : r' ≠ r) :
    readCell r' { s with cfg := storeConfig r v s.cfg } = readCell r' s := by
  cases r <;> cases v <;> cases r' <;> first | rfl | exact absurd rfl h

end Sys2Proof.Machine
end

