-- ==== Sys2Proof/Laws/PerInstr.lean ====
section
/-! SUPPORT. What is said of every operation, one lemma a constructor. The family `TableRow`: wherever the
encoder puts an operation, its first word has the fixed bits of its row in the opcode table, and
`TICK` on its own input has no word (30_encoding.md R81, R82, R85, R89). -/

namespace Sys2Proof.Laws

/-- The fixed bits of each row: the mask and the bits under it. -/
def tableRow : Instr → Byte × Byte
  | .nop => (0xFF, 0b00000000)
  | .init => (0xFF, 0b00000001)
  | .tick => (0xFF, 0b00000010)
  | .rdrst => (0xFF, 0b00001000)
  | .est => (0xFF, 0b00001001)
  | .tgt => (0xFF, 0b00001010)
  | .pid => (0xFF, 0b00001011)
  | .map => (0xFF, 0b00001100)
  | .commit => (0xFF, 0b00001101)
  | .rd _ => (0xC0, 0b00000000)
  | .wr _ _ => (0xC0, 0b10000000)

/-- The first byte of what travels on a channel; a pulse has none. -/
def firstByte : Wire Num → Option Byte
  | .cmd w => some (w.setWidth 8)
  | .micro w => some w
  | .bus h _ => some h
  | .tickPulse => none

/-- The family: the encoded operation carries its row's fixed bits on every channel it has. -/
def TableRow.Statement (i : Instr) : Prop :=
  ∀ (c : Channel) (w : Wire Num) (b : Byte), encode c i = some w → firstByte w = some b →
    b &&& (tableRow i).1 = (tableRow i).2

/-- Bits 7 and 6 of a bus header. -/
theorem busHeader_fixed (we : Bool) (addr : RegNum) :
    busHeader we addr &&& 0xC0 = if we then 0x80 else 0x00 := by
  cases we <;> revert addr <;> decide

/-- The word of an operation of format C is the same byte on `CMD` and in the micro-program. -/
theorem tableRow_of_commandWord (i : Instr) (v : Byte) (hv : i.commandWord = some v)
    (hr : v &&& (tableRow i).1 = (tableRow i).2) (hb : encode .bus i = none)
    (ht : ∀ w, encode .tickInput i = some w → firstByte w = none) : TableRow.Statement i := by
  intro c w b hw hf
  cases c with
  | cmd =>
    simp only [encode, hv, Option.map_some] at hw
    split at hw
    · cases hw
    · cases hw; simp only [firstByte, Option.some.injEq] at hf; subst hf; simpa using hr
  | microProgram =>
    simp only [encode, hv, Option.map_some] at hw
    split at hw
    · cases hw; cases hf; exact hr
    · cases hw
  | bus => rw [hb] at hw; cases hw
  | tickInput => rw [ht w hw] at hf; cases hf

theorem TableRow.nop : TableRow.Statement .nop :=
  tableRow_of_commandWord _ _ rfl rfl rfl (fun _ h => by cases h)

theorem TableRow.init : TableRow.Statement .init :=
  tableRow_of_commandWord _ _ rfl rfl rfl (fun _ h => by cases h)

theorem TableRow.tick : TableRow.Statement .tick :=
  tableRow_of_commandWord _ _ rfl rfl rfl (fun _ h => by cases h; rfl)

theorem TableRow.rdrst : TableRow.Statement .rdrst :=
  tableRow_of_commandWord _ _ rfl rfl rfl (fun _ h => by cases h)

theorem TableRow.est : TableRow.Statement .est :=
  tableRow_of_commandWord _ _ rfl rfl rfl (fun _ h => by cases h)

theorem TableRow.tgt : TableRow.Statement .tgt :=
  tableRow_of_commandWord _ _ rfl rfl rfl (fun _ h => by cases h)

theorem TableRow.pid : TableRow.Statement .pid :=
  tableRow_of_commandWord _ _ rfl rfl rfl (fun _ h => by cases h)

theorem TableRow.map : TableRow.Statement .map :=
  tableRow_of_commandWord _ _ rfl rfl rfl (fun _ h => by cases h)

theorem TableRow.commit : TableRow.Statement .commit :=
  tableRow_of_commandWord _ _ rfl rfl rfl (fun _ h => by cases h)

theorem TableRow.rd (addr : RegNum) : TableRow.Statement (.rd addr) := by
  intro c w b hw hf
  cases c <;> simp only [encode, Instr.isMicro, Instr.commandWord] at hw
  case bus => cases hw; cases hf; exact busHeader_fixed false addr
  all_goals cases hw

theorem TableRow.wr (addr : RegNum) (wdata : Payload Num) : TableRow.Statement (.wr addr wdata) := by
  intro c w b hw hf
  cases c <;> simp only [encode, Instr.isMicro, Instr.commandWord] at hw
  case bus => cases hw; cases hf; exact busHeader_fixed true addr
  all_goals cases hw

end Sys2Proof.Laws
end

