-- ==== Sys2Proof/Laws/Step.lean ====
section
/-! SUPPORT. What one step can do: the events, and which operations they run (00_scope.md R7,
20_memory.md R66, 45_loop_driver.md R150). -/

namespace Sys2Proof.Machine

variable {N : Type}

/-- Taking an event changes only the arrivals and the count of free values. -/
theorem takeEvent_frame (s s1 : State.Of N) (e : Event N) (h : takeEvent s = some (e, s1)) :
    s1 = { s with arrivals := s1.arrivals, freeCount := s1.freeCount } := by
  unfold takeEvent at h
  split at h
  · cases h
  · split at h
    · cases h; rfl
    · split at h
      · cases h; rfl
      · cases h; rfl
      · cases h; rfl
      · split at h <;> (cases h; rfl)

/-- A reset event is the reset line of the next arrival. -/
theorem takeEvent_reset (s s1 : State.Of N) (h : takeEvent s = some (.reset, s1)) :
    ∃ a rest, s.arrivals = a :: rest ∧ a.reset = true ∧ s1 = { s with arrivals := rest } := by
  unfold takeEvent at h
  split at h
  · cases h
  · rename_i a rest ha
    split at h
    · rename_i hr; cases h; exact ⟨a, rest, ha, hr, rfl⟩
    · split at h
      · cases h
      · cases h
      · cases h
      · split at h <;> cases h

/-- The reset line of the next arrival is a reset event. -/
theorem takeEvent_of_reset (s : State.Of N) (a : Arrival N) (rest : List (Arrival N))
    (ha : s.arrivals = a :: rest) (hr : a.reset = true) :
    takeEvent s = some (.reset, { s with arrivals := rest }) := by
  unfold takeEvent
  rw [ha]
  simp [hr]

/-- The step is the case `params` of the step in any instantiation (10_state.md R55). -/
theorem step_eq_stepWith (s : State) : step s = stepWith params s := by
  unfold step stepWith
  cases fetchNext s <;> first | rfl | exact exec_eq_effect _ _

/-- With the reset line up the step is RESET, inside a cycle too. -/
theorem stepWith_of_reset (P : Params N) (s : State.Of N) (a : Arrival N) (rest : List (Arrival N))
    (ha : s.arrivals = a :: rest) (hr : a.reset = true) :
    stepWith P s = .next (resetBlock P { s with arrivals := rest }) := by
  have hp : s.resetPending = true := by simp [State.Of.resetPending, ha, hr]
  unfold stepWith fetchNext
  simp [hp, takeEvent_of_reset s a rest ha hr]

/-- The same of this block. -/
theorem step_of_reset (s : State) (a : Arrival Num) (rest : List (Arrival Num))
    (ha : s.arrivals = a :: rest) (hr : a.reset = true) :
    step s = .next (resetBlock params { s with arrivals := rest }) := by
  rw [step_eq_stepWith, stepWith_of_reset params s a rest ha hr]

/-- The two decodings of a word that starts: its sample and its operation. -/
theorem fetchWire_run (w : Wire N) (r : TickRecord N) (s s1 : State.Of N) (i : Instr N)
    (h : fetchWire w r s = .run i s1) :
    ∃ p, decodeSample r = .ok p ∧ decode w = .ok i ∧ s1 = startEvent p s := by
  unfold fetchWire at h
  split at h
  · cases h
  · rename_i p hp
    split at h
    · cases h
    · rename_i j hj; cases h; exact ⟨p, hp, hj, rfl⟩

/-- Everything a step that answers a next state can be: a step of a cycle under way; nothing; RESET;
or a read, a write or a tick on the state in which the event has started. -/
theorem stepWith_cases (P : Params N) (s t : State.Of N) (h : stepWith P s = .next t) :
    (s.midCycle = true ∧ ∃ i, fetchMicro s.phase = some i ∧ effect P i s = t) ∨
    (s.midCycle = false ∧ ∃ a n, t = { s with arrivals := a, freeCount := n }) ∨
    (∃ a rest, s.arrivals = a :: rest ∧ a.reset = true ∧
      t = resetBlock P { s with arrivals := rest }) ∨
    (s.midCycle = false ∧ ∃ (i : Instr N) (p : TickSample N) (a : List (Arrival N)) (n : Nat),
      (i = .tick ∨ (∃ x, i = .rd x) ∨ (∃ x v, i = .wr x v)) ∧
      effect P i (startEvent p { s with arrivals := a, freeCount := n }) = t) := by
  cases hp : s.resetPending with
  | true =>
    right; right; left
    unfold State.Of.resetPending at hp
    split at hp
    · rename_i a rest ha
      rw [stepWith_of_reset P s a rest ha hp] at h
      cases h
      exact ⟨a, rest, ha, hp, rfl⟩
    · cases hp
  | false =>
  unfold stepWith fetchNext at h
  rw [hp] at h
  cases hm : s.midCycle with
  | true =>
    left
    rw [hm] at h
    simp only [Bool.not_false, Bool.and_true, if_true] at h
    cases hf : fetchMicro s.phase with
    | none => rw [hf] at h; cases h
    | some i => rw [hf] at h; cases h; exact ⟨rfl, i, rfl, rfl⟩
  | false =>
    right
    rw [hm] at h
    simp only [Bool.false_and, Bool.false_eq_true, if_false] at h
    cases ht : takeEvent s with
    | none => rw [ht] at h; cases h; left; exact ⟨rfl, s.arrivals, s.freeCount, rfl⟩
    | some es =>
      obtain ⟨e, s1⟩ := es
      have hfr := takeEvent_frame s s1 e ht
      rw [ht] at h
      have run (w : Wire N) (r : TickRecord N)
          (hw : ∀ i, decode w = .ok i → i = .tick ∨ (∃ x, i = .rd x) ∨ (∃ x v, i = .wr x v))
          (hrun : (match fetchWire w r s1 with
            | .quiet s1 => .next s1
            | .reset s1 => .next (resetBlock P s1)
            | .run i s1 => .next (effect P i s1)
            | .noMicroWord => .fault .noMicroWord
            | .unissuable e => .refused (.notATransaction e) : Result N) = .next t) :
          ∃ (i : Instr N) (p : TickSample N) (a : List (Arrival N)) (n : Nat),
            (i = .tick ∨ (∃ x, i = .rd x) ∨ (∃ x v, i = .wr x v)) ∧
            effect P i (startEvent p { s with arrivals := a, freeCount := n }) = t := by
        unfold fetchWire at hrun
        cases hp : decodeSample r with
        | error e => rw [hp] at hrun; cases hrun
        | ok p =>
          cases hi : decode w with
          | error e => rw [hp, hi] at hrun; cases hrun
          | ok i =>
            rw [hp, hi] at hrun
            simp only at hrun
            rw [hfr] at hrun
            cases hrun
            exact ⟨i, p, _, _, hw i hi, rfl⟩
      cases e with
      | quiet =>
        left
        cases h
        exact ⟨rfl, _, _, hfr⟩
      | reset =>
        right; left
        obtain ⟨a, rest, ha, hr, hs⟩ := takeEvent_reset s s1 ht
        cases h
        exact ⟨a, rest, ha, hr, by rw [hs]⟩
      | bus b =>
        right; right
        refine ⟨rfl, run _ b.ports ?_ h⟩
        intro i hi
        rcases decodeBus_cases _ _ _ hi with ⟨rfl, -⟩ | ⟨v, rfl, -⟩
        · exact .inr (.inl ⟨_, rfl⟩)
        · exact .inr (.inr ⟨_, _, rfl⟩)
      | tick r =>
        right; right
        refine ⟨rfl, run _ r ?_ h⟩
        intro i hi
        cases hi
        exact .inl rfl

/-- The same of this block. -/
theorem step_cases (s t : State) (h : step s = .next t) :
    (s.midCycle = true ∧ ∃ i, fetchMicro s.phase = some i ∧ exec i s = .next t) ∨
    (s.midCycle = false ∧ ∃ a n, t = { s with arrivals := a, freeCount := n }) ∨
    (∃ a rest, s.arrivals = a :: rest ∧ a.reset = true ∧
      t = resetBlock params { s with arrivals := rest }) ∨
    (s.midCycle = false ∧ ∃ (i : Instr) (p : TickSample Num) (a : List (Arrival Num)) (n : Nat),
      (i = .tick ∨ (∃ x, i = .rd x) ∨ (∃ x v, i = .wr x v)) ∧
      exec i (startEvent p { s with arrivals := a, freeCount := n }) = .next t) := by
  simpa only [exec_eq_effect, Host.Outcome.next.injEq] using
    stepWith_cases params s t (step_eq_stepWith s ▸ h)

end Sys2Proof.Machine
end

