-- ==== Sys2Proof/Tests/Slice0.lean ====
section
/-! SUPPORT. Tests of the model against words written out from the encoding tables and against the
vectors of spec/95_test_vectors.md, and for every obligation with hypotheses a witness that meets them. -/

namespace Sys2Proof.Tests

open Sys2Proof Sys2Proof.Machine

/-! ### Small states -/

/-- A sample the ports present. -/
def sample (cnt : I16) (tgt : Rat) (cntFail pwmFail : Bool) : TickSample Rat :=
  { cnt := cnt, cntFail := cntFail, tgt := tgt, pwmFail := pwmFail }

/-- V-INIT row 2 with the reference `PWM_MAX`; the gains are the reset ones, in range by R211. -/
def goodCfg : MotorConfig Rat :=
  { MotorConfig.zero 0 with gear := 21, encRes := 44, sampleMs := 10, pwmMax := 255 }

/-- The configuration of `CONFIG 21, 44, 10, 255, 1.9, 1.26, 0`. -/
def tunedCfg : MotorConfig Rat := { goodCfg with kp := 19/10, ki := 63/50 }

/-- Configured, not constructed. -/
def unconfS : State := { State.reset with cfg := goodCfg, pwmExt := ⟨0, 0⟩ }

/-- Constructed, no tick yet. -/
def idleS : State := { unconfS with lifecycle := .idle }

/-- Running, with no cycle in progress. -/
def runS : State := { unconfS with lifecycle := .running }

/-- Frozen by a counter fault. -/
def faultS : State := { unconfS with lifecycle := .fault, phase := 1, cause := some .cntFault }

/-- A state in which the ports present a sample. -/
def at_ (s : State) (p : TickSample Rat) : State := { s with ports := p }

/-- The state after an operation. -/
def after (i : Instr) (s : State) : State :=
  match exec i s with
  | .next t => t
  | _ => s

/-- The state after a step. -/
def afterStep (s : State) : State :=
  match step s with
  | .next t => t
  | _ => s

/-- A bus access with the ports at rest. -/
def access (header : Byte) (payload : Option (Payload Rat)) : Arrival Rat :=
  { reset := false
    bus := some { header := header, payload := payload, ports := { cnt := 0, flags := 0, tgt := 0 } }
    tick := none }

/-- A pulse on the tick input. -/
def pulse (cnt : I16) (flags : Byte) (tgt : Rat) : Arrival Rat :=
  { reset := false, bus := none, tick := some { cnt := cnt, flags := flags, tgt := tgt } }

/-- The reset line, with a bus access that is lost. -/
def resetLine : Arrival Rat := { access 0x01 none with reset := true }

/-! ### WellFormed refuses (30_encoding.md R85, R89) -/

theorem test_wellFormed_refuses_nop_in_the_microProgram : wellFormed .microProgram (.nop : Instr) = false := by
  decide
theorem test_wellFormed_refuses_init_on_the_tickInput : wellFormed .tickInput (.init : Instr) = false := by decide
theorem test_wellFormed_refuses_tick_as_a_bus_header : wellFormed .bus (.tick : Instr) = false := by decide
theorem test_wellFormed_refuses_rdrst_on_cmd : wellFormed .cmd (.rdrst : Instr) = false := by decide
theorem test_wellFormed_refuses_est_on_the_bus : wellFormed .bus (.est : Instr) = false := by decide
theorem test_wellFormed_refuses_tgt_on_cmd : wellFormed .cmd (.tgt : Instr) = false := by decide
theorem test_wellFormed_refuses_pid_on_cmd : wellFormed .cmd (.pid : Instr) = false := by decide
theorem test_wellFormed_refuses_map_on_the_tickInput : wellFormed .tickInput (.map : Instr) = false := by decide
theorem test_wellFormed_refuses_commit_on_cmd : wellFormed .cmd (.commit : Instr) = false := by decide
theorem test_wellFormed_refuses_rd_on_cmd : wellFormed .cmd (.rd 0 : Instr) = false := by decide
theorem test_wellFormed_refuses_wr_in_the_microProgram :
    wellFormed .microProgram (.wr 8 (.num 21) : Instr) = false := by decide

/-! ### Decoding, one word a constructor (30_encoding.md R82, R85, R87) -/

theorem test_decode_nop : decode (.cmd 0b00000000000000000000000000000000) = .ok (.nop : Instr) := rfl
theorem test_decode_init : decode (.cmd 0b00000000000000000000000000000001) = .ok (.init : Instr) := rfl
theorem test_decode_tick : decode (.cmd 0b00000000000000000000000000000010) = .ok (.tick : Instr) := rfl
theorem test_decode_rdrst : decode (.micro 0b00001000) = .ok (.rdrst : Instr) := rfl
theorem test_decode_est : decode (.micro 0b00001001) = .ok (.est : Instr) := rfl
theorem test_decode_tgt : decode (.micro 0b00001010) = .ok (.tgt : Instr) := rfl
theorem test_decode_pid : decode (.micro 0b00001011) = .ok (.pid : Instr) := rfl
theorem test_decode_map : decode (.micro 0b00001100) = .ok (.map : Instr) := rfl
theorem test_decode_commit : decode (.micro 0b00001101) = .ok (.commit : Instr) := rfl
/-- The header of `RD DUTY_A`, program P3. -/
theorem test_decode_rd : decode (.bus 0b00100000 none) = .ok (.rd 0x20 : Instr) := rfl
/-- The header of `WR GEAR`, V-RDWR row 5. -/
theorem test_decode_wr : decode (.bus 0b10001000 (some (.num 21))) = .ok (.wr 0x08 (.num 21) : Instr) := rfl

/-- The reserved opcodes 0x3 to 0x7, 0xE and 0xF (30_encoding.md R85), bit 6 of a header (R82), a
payload missing or in excess (R89), a flag byte above 3 (R88). -/
theorem test_decode_rejects_by_name :
    (∀ op : Fin 16, (3 ≤ op.val ∧ op.val ≤ 7) ∨ 14 ≤ op.val →
      (decode (.cmd (BitVec.ofNat 32 op.val) : Wire Rat)).toOption = none ∧
      (decode (.micro (BitVec.ofNat 8 op.val) : Wire Rat)).toOption = none) ∧
    decode (.bus 0b01001000 none : Wire Rat) = .error .headerBit6 ∧
    decode (.bus 0b10001000 none : Wire Rat) = .error .payloadMissing ∧
    decode (.bus 0b00001000 (some (.int 0)) : Wire Rat) = .error .payloadOnRead ∧
    decode (.micro 0b00000010 : Wire Rat) = .error .hostCommandInMicroProgram ∧
    decodeSample ({ cnt := 0, flags := 0x04, tgt := 0 } : TickRecord Rat) = .error .sampleFlags := by
  exact ⟨by decide, rfl, rfl, rfl, rfl, rfl⟩

/-- The instruction a state is about to run. -/
def about (s : State) : Option Instr :=
  match fetchNext s with
  | .run i _ => some i
  | _ => none

/-- Every row of spec/opcode_table.json: the word placed after reset is the instruction fetched. -/
theorem test_withFetchWord_places_every_row :
    about (State.reset.withFetchWord 8 0x00) = some (.wr 0 (.int 0)) ∧
    about (State.reset.withFetchWord 8 0x01) = some (.wr 0 (.int 1)) ∧
    about (State.reset.withFetchWord 8 0x02) = some .tick ∧
    about (State.reset.withFetchWord 8 0x08) = some .rdrst ∧
    about (State.reset.withFetchWord 8 0x09) = some .est ∧
    about (State.reset.withFetchWord 8 0x0A) = some .tgt ∧
    about (State.reset.withFetchWord 8 0x0B) = some .pid ∧
    about (State.reset.withFetchWord 8 0x0C) = some .map ∧
    about (State.reset.withFetchWord 8 0x0D) = some .commit ∧
    about (State.reset.withFetchWord 8 0x20) = some (.rd 0x20) ∧
    about (State.reset.withFetchWord 8 0x88) = some (.wr 0x08 (.num 0)) := by decide

/-! ### The vectors of spec/95_test_vectors.md -/

/-- V-RDWR row 12. -/
theorem test_nop_command :
    afterStep { runS with arrivals := [access 0x80 (some (.int 0))] } = runS := by decide +kernel

/-- V-INIT row 12: four checks fail together. -/
theorem test_init_mask :
    let t := after .init { State.reset with cfg := { MotorConfig.zero 0 with encRes := 44, klpf := 2, pwmMin := 3 } }
    readCell .cfgDetail t = .int 0x1D ∧ readCell .status t = .int 0x010 ∧ readCell .cause t = .int 1 := by
  decide +kernel

/-- V-INIT row 13: the bounds of the clamp may be equal. -/
theorem test_init_equal_clamp_bounds :
    let t := after .init (after (.wr 0x0D (.int 0xFFFFFFFF)) unconfS)
    readCell .ctrl t = .int 7 ∧ readCell .status t = .int 0x001 := by decide +kernel

/-- V-E2E-1. -/
theorem test_tick_whole_cycle :
    let t := after .tick { at_ idleS (sample 10 80 false false) with cfg := tunedCfg }
    t.ctl.velPrev = 5000/77 ∧ t.ctl.pPrev = 1160/77 ∧ t.lat.u = 18328/385 ∧
    t.out = .tick (.ok 47 0) ∧ readCell .status t = .int 0x002 := by decide +kernel

/-- V-EXC row 7: the flags stay and `CAUSE` is overwritten. -/
theorem test_tick_pwm_fault :
    let t := after .tick
      { at_ runS (sample 0 0 false true) with flags := ⟨true, true, true, true⟩, cause := some .illAddr }
    readCell .status t = .int 0x5F3 ∧ readCell .cause t = .int 3 ∧ t.out = .tick (.fault .pwmFault) := by
  decide +kernel

/-- V-RDRST row 5. -/
theorem test_rdrst_smallest_count :
    let t := after .rdrst { at_ runS (sample 0x8000 0 false false) with phase := 1 }
    readCell .delta t = .int 0xFFFF8000 ∧ t.ports.cnt = 0 ∧ t.phase = 2 := by decide

/-- V-RDRST row 6. -/
theorem test_rdrst_counter_fault :
    let t := after .rdrst { at_ runS (sample 0x007B 0 true false) with phase := 1 }
    t.ports.cnt = 123 ∧ readCell .status t = .int 0x103 ∧ readCell .cause t = .int 2 := by decide

/-- V-EST row 9: negative, and the filter between the two speeds. -/
theorem test_est_negative_filtered :
    let t := after .est
      { runS with
        cfg := { goodCfg with klpf := 1/4 }
        ctl := { ControllerState.zero 0 with velPrev := -20 }
        lat := { Latches.zero 0 with delta := -2 } }
    t.lat.raw = -1000/77 ∧ t.ctl.vel = -1135/77 ∧ t.ctl.velPrev = -20 ∧ t.phase = 3 := by decide +kernel

/-- V-EST row 10: the division is exact. -/
theorem test_est_exact_division :
    (after .est
      { runS with cfg := { goodCfg with sampleMs := 7 }, lat := { Latches.zero 0 with delta := 1 } }).lat.raw
      = 5000/539 := by decide +kernel

/-- V-TGT row 5. -/
theorem test_tgt_reversed :
    let t := after .tgt { at_ runS (sample 0 (-7/2) false false) with cfg := { goodCfg with reverse := true } }
    t.ctl.target = 7/2 ∧ t.phase = 4 := by decide +kernel

/-- V-PID row 9: derivative and clamp. -/
theorem test_pid_clamped_with_derivative :
    let t := after .pid
      { runS with
        cfg :=
          { goodCfg with
            kp := 2, ki := 1/2, kd := 1, enD := true, iclampEn := true, iclampLo := -50, iclampHi := 50 }
        ctl := { ControllerState.zero 0 with target := -100, iPrev := -40 } }
    t.lat.iNew = -50 ∧ t.lat.dNew = -100 ∧ t.lat.u = -325 ∧ t.ctl.iPrev = -40 ∧ t.phase = 5 := by
  decide +kernel

/-- V-PID row 6: `KD` is not read. -/
theorem test_pid_derivative_off :
    let t := after .pid
      { runS with
        cfg := { goodCfg with kp := 2, ki := 1/2, kd := 3 }
        ctl := { ControllerState.zero 0 with target := 50, vel := 60, pPrev := -4, iPrev := 12 } }
    t.lat.pNew = -10 ∧ t.lat.iNew = 2 ∧ t.lat.dNew = -6 ∧ t.lat.u = -19 := by decide +kernel

/-- V-MAP row 8: the magnitude is truncated. -/
theorem test_map_negative_truncates :
    let t := after .map { runS with lat := { Latches.zero 0 with u := -81528/385 } }
    t.duty = ⟨0, 211⟩ ∧ t.pwmExt = ⟨0, 211⟩ ∧ t.phase = 6 := by decide +kernel

/-- V-MAP row 11: clamped to `PWM_MAX`. -/
theorem test_map_saturates :
    (after .map { runS with lat := { Latches.zero 0 with u := 511/2 } }).duty = ⟨255, 0⟩ := by decide +kernel

/-- V-COMMIT row 2. -/
theorem test_commit :
    let t := after .commit
      { runS with
        phase := 6
        ctl := { ControllerState.zero 0 with vel := -2500/77 }
        lat := { Latches.zero 0 with pNew := -3660/77, iNew := -1260/11 } }
    t.ctl.velPrev = -2500/77 ∧ t.ctl.pPrev = -3660/77 ∧ t.ctl.iPrev = -1260/11 ∧ t.phase = 0 := by
  decide +kernel

/-- V-RDWR row 3. -/
theorem test_rd_unassigned :
    let t := afterStep { State.reset with arrivals := [access 0x05 none] }
    t.out = .rdata (.int 0) ∧ readCell .status t = .int 0x080 ∧ readCell .cause t = .int 6 := by decide +kernel

/-- V-RDWR row 20. -/
theorem test_rd_unassigned_in_fault :
    after (.rd 0x3F) faultS = { faultS with out := .rdata (.int 0) } := by decide +kernel

/-- V-RDWR row 8. -/
theorem test_wr_ctrl_keeps_three_bits :
    readCell .ctrl (afterStep { State.reset with arrivals := [access 0x8D (some (.int 13))] }) = .int 5 := by
  decide +kernel

/-- V-RDWR row 15: the word is not cut to its low byte. -/
theorem test_wr_cmd_high_bits :
    let t := after (.wr 0 (.int 258)) runS
    readCell .status t = .int 0x042 ∧ readCell .cause t = .int 5 ∧ t.out = .none := by decide +kernel

/-- V-EXC row 5. -/
theorem test_reset_event :
    afterStep { faultS with arrivals := [resetLine] } = { State.reset with pwmExt := faultS.pwmExt } := by
  decide +kernel

/-! ### Witnesses: for every obligation with hypotheses, inputs that meet them together -/

theorem blockInv_unconfS : BlockInv unconfS where
  phaseOutside := by decide
  phaseInFault := by decide
  causeFlagged := by decide
  fatalOnlyInFault := by decide
  configured := by decide
  dutyARange := by decide
  dutyBRange := by decide
  exclusive := by decide
  deltaRange := by decide
  committed := by decide
  unstarted := by decide

theorem blockInv_idleS : BlockInv idleS where
  phaseOutside := by decide
  phaseInFault := by decide
  causeFlagged := by decide
  fatalOnlyInFault := by decide
  configured := by decide +kernel
  dutyARange := by decide
  dutyBRange := by decide
  exclusive := by decide
  deltaRange := by decide
  committed := by decide
  unstarted := by decide

theorem blockInv_runS : BlockInv runS where
  phaseOutside := by decide
  phaseInFault := by decide
  causeFlagged := by decide
  fatalOnlyInFault := by decide
  configured := by decide +kernel
  dutyARange := by decide
  dutyBRange := by decide
  exclusive := by decide
  deltaRange := by decide
  committed := by decide
  unstarted := by decide

theorem blockInv_faultS : BlockInv faultS where
  phaseOutside := by decide
  phaseInFault := by decide
  causeFlagged := by decide
  fatalOnlyInFault := by decide
  configured := by decide +kernel
  dutyARange := by decide
  dutyBRange := by decide
  exclusive := by decide
  deltaRange := by decide
  committed := by decide
  unstarted := by decide

theorem witness_DecodeOfEncodeIsTheInstruction :
    wellFormed .cmd (.tick : Instr) = true ∧ wellFormed .tickInput (.tick : Instr) = true ∧
    wellFormed .microProgram (.commit : Instr) = true ∧ wellFormed .bus (.rd 0 : Instr) = true ∧
    wellFormed .bus (.wr 0x3F (.num (-1/2)) : Instr) = true := by decide

theorem witness_DecodedWordsEncodeBack :
    decode (.cmd 0) = .ok (.nop : Instr) ∧ decode (.micro 0x0D) = .ok (.commit : Instr) ∧
    decode (.bus 0x3F none) = .ok (.rd 0x3F : Instr) ∧
    decode (.bus 0xBF (some (.int 1))) = .ok (.wr 0x3F (.int 1) : Instr) ∧
    decode .tickPulse = .ok (.tick : Instr) :=
  ⟨rfl, rfl, rfl, rfl, rfl⟩

theorem witness_TickRecordRoundTrip :
    decodeSample ({ cnt := 0x8000, flags := 3, tgt := 80 } : TickRecord Rat) = .ok (sample 0x8000 80 true true) := rfl

theorem witness_RegisterMapIsTheTable :
    Reg.ofNumber 0x00 = some .cmd ∧ Reg.ofNumber 0x2D = some .u ∧ Reg.ofNumber 0x03 = some .cfgDetail ∧
    Reg.ofNumber 0x08 = some .gear := by decide

theorem witness_ResetEventZeroesTheBlockOnly :
    ({ faultS with arrivals := [resetLine] } : State).arrivals = [resetLine] ∧ resetLine.reset = true :=
  ⟨rfl, rfl⟩

theorem witness_EveryStepKeepsTheInvariant :
    BlockInv { idleS with arrivals := [pulse 10 0 80] } ∧
    ∃ t, step { idleS with arrivals := [pulse 10 0 80] } = .next t :=
  ⟨{ blockInv_idleS with }, _, rfl⟩

theorem witness_NoStepFaultsBetweenEvents :
    BlockInv unconfS ∧ BlockInv idleS ∧ BlockInv runS ∧ BlockInv faultS :=
  ⟨blockInv_unconfS, blockInv_idleS, blockInv_runS, blockInv_faultS⟩

theorem witness_AStepRunsTheDecodedInstruction_bus :
    idleS.midCycle = false ∧
    decodeSample ({ cnt := 0, flags := 0, tgt := 0 } : TickRecord Rat) = .ok (sample 0 0 false false) ∧
    decode (.bus 0x80 (some (.int 2))) = .ok (.wr 0 (.int 2) : Instr) := ⟨by decide, rfl, rfl⟩

theorem witness_AStepRunsTheDecodedInstruction_tick :
    runS.midCycle = false ∧
    decodeSample ({ cnt := 10, flags := 3, tgt := 80 } : TickRecord Rat) = .ok (sample 10 80 true true) :=
  ⟨by decide, rfl⟩

theorem witness_AStepRunsTheDecodedInstruction_micro :
    runS.resetPending = false ∧ microProgram 1 = some 0x08 ∧ decode (.micro 0x08) = .ok (.rdrst : Instr) ∧
    microProgram 6 = some 0x0D ∧ decode (.micro 0x0D) = .ok (.commit : Instr) := ⟨rfl, rfl, rfl, rfl, rfl⟩

theorem witness_SimultaneousEventsInEitherOrder :
    runS.midCycle = false ∧
    decodeSample ({ cnt := 10, flags := 0, tgt := 80 } : TickRecord Rat) = .ok (sample 10 80 false false) ∧
    decode (.bus 0x01 none) = .ok (.rd 1 : Instr) := ⟨by decide, rfl, rfl⟩

theorem witness_LifecycleFollowsTheTransitionTable :
    (∃ t, exec .init unconfS = .next t ∧ t.lifecycle = .idle) ∧
    (∃ t, exec (.wr 0 (.int 2)) idleS = .next t ∧ t.lifecycle = .running) ∧
    (∃ t, step { runS with arrivals := [resetLine] } = .next t) := by
  refine ⟨⟨_, rfl, ?_⟩, ⟨_, rfl, ?_⟩, _, rfl⟩ <;> decide +kernel

theorem witness_StickyFlagsAreNeverCleared :
    (∃ t, exec .init { unconfS with flags := ⟨true, false, false, true⟩ } = .next t) ∧
    (⟨true, false, false, true⟩ : StickyFlags).has .illAddr = true := ⟨⟨_, rfl⟩, rfl⟩

theorem witness_ConfigurationIsFrozenAfterConstruction :
    idleS.lifecycle ≠ .unconf ∧ (∃ t, exec (.wr 0x08 (.num 1)) idleS = .next t) ∧
    (∃ t, exec .init unconfS = .next t) ∧ Reg.gear.bank = .motorConfig ∧ Reg.iclampHi.bank = .motorConfig ∧
    idleS.accepts = true ∧ runS.accepts = true ∧ faultS.lifecycle = .fault :=
  ⟨by decide, ⟨_, rfl⟩, ⟨_, rfl⟩, rfl, rfl, by decide, by decide, rfl⟩

theorem witness_FaultIsFinalUntilReset :
    (∃ t, step { faultS with arrivals := [pulse 1 0 1] } = .next t) ∧
    (∃ t, step { faultS with arrivals := [resetLine] } = .next t ∧ t.lifecycle = .unconf) ∧
    (∃ t, exec .tick faultS = .next t) ∧ faultS.lifecycle = .fault ∧ Reg.ofNumber 0x3F = none ∧
    Reg.ofNumber 0x04 = none := ⟨⟨_, rfl⟩, ⟨_, rfl, rfl⟩, ⟨_, rfl⟩, rfl, rfl, rfl⟩

theorem witness_ReadReturnsTheCell :
    (∀ r : Reg, r.number ≠ 0x04) ∧ (∀ r : Reg, r.number ≠ 0x2E) ∧ (∀ r : Reg, r.number ≠ 0x3F) := by
  refine ⟨?_, ?_, ?_⟩ <;> (intro r; cases r <;> decide)

theorem witness_WriteStoresAConfigurationCell :
    unconfS.lifecycle = .unconf ∧ Reg.gear.bank = .motorConfig ∧
    (Payload.num 21 : Payload Rat).cellType = Reg.gear.cellType ∧
    (Payload.int 13 : Payload Rat).cellType = Reg.ctrl.cellType := by decide

theorem witness_RefusedWritesChangeOnlyFlagAndCause :
    runS.lifecycle ≠ .fault ∧ (∀ r : Reg, r.number ≠ 0x07) ∧
    Reg.vel.bank ≠ .motorConfig ∧ Reg.status.bank ≠ .motorConfig ∧ idleS.lifecycle ≠ .unconf ∧
    (Payload.int 21 : Payload Rat).cellType ≠ Reg.gear.cellType :=
  ⟨by decide, by intro r; cases r <;> decide, by decide, by decide, by decide, by decide⟩

theorem witness_IllegalCommandsRaiseIllCmd :
    runS.lifecycle ≠ .fault ∧ 2 < (3#32).toNat ∧ 2 < (0xFFFFFFFF#32).toNat ∧ idleS.accepts = true ∧
    unconfS.lifecycle = .unconf ∧ (∃ t, exec (.wr Reg.cmd.number (.int 1)) faultS = .next t) :=
  ⟨by decide, by decide, by decide, by decide, rfl, _, rfl⟩

/-- A configuration at the upper bound of `KLPF` and with equal clamp bounds, and one at the lower. -/
theorem witness_InitConstructsFromAValidConfiguration :
    (validityMask params { goodCfg with klpf := 1, iclampEn := true }).any = false ∧
    (validityMask params { goodCfg with pwmMax := 0 }).any = false ∧
    0 < goodCfg.gear ∧ 0 < goodCfg.encRes ∧ 0 < goodCfg.sampleMs.toInt ∧ goodCfg.klpf ≤ 1 ∧
    goodCfg.pwmMin = 0 ∧ 0 ≤ goodCfg.pwmMax.toInt ∧
    gainValid goodCfg.kp goodCfg.ki goodCfg.kd = true := by decide +kernel

/-- Gains in range and, under parameters that refuse them, the same gains out of range. -/
theorem witness_GainRangeDecidesConstruction :
    unconfS.lifecycle = .unconf ∧ params.gainValid unconfS.cfg.kp unconfS.cfg.ki unconfS.cfg.kd = true ∧
    ({ params with gainValid := fun _ _ _ => false } : Params Rat).gainValid 0 0 0 = false := by
  refine ⟨rfl, ?_, rfl⟩
  decide +kernel

theorem witness_ParametersChangeNumbersOnlyOutsideInit :
    isInitEvent (.tick : Instr) = false ∧ isInitEvent (.wr 0 (.int 0) : Instr) = false ∧
    isInitEvent (.wr 8 (.int 1) : Instr) = false := by decide

/-- Another carrier: integers, every operation of which cuts the fraction off, and gains that are never out
of range. -/
def intParams : Params Int :=
  { ofInt := id, add := (· + ·), sub := (· - ·), mul := (· * ·), div := Int.tdiv
    lt := fun a b => a < b, le := fun a b => a ≤ b, ge := fun a b => b ≤ a, eq := fun a b => a = b
    trunc := id, gainValid := fun _ _ _ => true }

/-- After reset over the other carrier, a write of the number 21 to `GEAR` arriving. -/
def intS : State.Of Int :=
  { State.zeroed 0 with
    arrivals :=
      [{ reset := false, tick := none
         bus := some { header := 0x88, payload := some (.num 21)
                       ports := { cnt := 0, flags := 0, tgt := 0 } } }] }

theorem witness_EveryInstantiationKeepsTheControlInvariant :
    ControlInv intParams intS ∧ (∃ t, stepWith intParams intS = .next t ∧ t.cfg.gear = 21) :=
  ⟨⟨by decide, by decide, by decide, by decide, by decide, by decide, by decide, by decide, by decide⟩,
    _, rfl, rfl⟩

theorem witness_FormulasAreEvaluatedInTheWrittenOrder : runS.ports.pwmFail = false := rfl

theorem witness_PidComputesTheControlOutput :
    runS.cfg.iclampEn = false ∧
    ({ goodCfg with iclampEn := true, iclampLo := 5, iclampHi := 5 } : MotorConfig Rat).iclampEn = true ∧
    ({ goodCfg with iclampEn := true, iclampLo := 5, iclampHi := 5 } : MotorConfig Rat).iclampLo ≤
      ({ goodCfg with iclampEn := true, iclampLo := 5, iclampHi := 5 } : MotorConfig Rat).iclampHi := by
  decide +kernel

theorem witness_InitLeavesTheControllerZero :
    BlockInv unconfS ∧ ∃ t, exec .init unconfS = .next t ∧ t.lifecycle = .idle :=
  ⟨blockInv_unconfS, _, rfl, by decide +kernel⟩

theorem witness_InitRejectsAnInvalidConfiguration :
    State.reset.lifecycle = .unconf ∧ (validityMask params State.reset.cfg).word ≠ 0 := by decide +kernel

theorem witness_InitSucceedsOnceAndMayBeRetried :
    runS.accepts = true ∧ faultS.lifecycle = .fault ∧ State.reset.lifecycle = .unconf ∧
    (validityMask params State.reset.cfg).any = true ∧ (validityMask params goodCfg).any = false ∧
    ∃ t, exec .init State.reset = .next t :=
  ⟨by decide, rfl, rfl, by decide +kernel, by decide +kernel, _, rfl⟩

theorem witness_RdrstReadsAndClearsTheCount :
    (at_ runS (sample 0x8000 0 false false)).ports.cntFail = false ∧
    (at_ runS (sample 0x007B 0 true false)).ports.cntFail = true := by decide

theorem witness_DeltaKeepsTheSignedValueOfTheCount :
    ∃ t, exec .rdrst (at_ runS (sample 0x8000 0 false false)) = .next t := ⟨_, rfl⟩

theorem witness_EstComputesRawAndFilteredSpeed :
    runS.cfg.gear * runS.cfg.encRes ≠ 0 ∧ runS.cfg.sampleMs.toInt ≠ 0 := by decide +kernel

theorem witness_RawSpeedIsLinearInTheDelta :
    0 < runS.cfg.gear ∧ 0 < runS.cfg.encRes ∧ 0 < runS.cfg.sampleMs.toInt ∧
    ∃ t, exec .est { runS with lat := { Latches.zero 0 with delta := -1 } } = .next t ∧ t.lat.delta.toInt < 0 :=
  ⟨by decide +kernel, by decide +kernel, by decide, _, rfl, by decide⟩

theorem witness_FilterIsAConvexCombination :
    0 ≤ goodCfg.klpf ∧ goodCfg.klpf ≤ 1 ∧
    0 ≤ ({ goodCfg with klpf := 1 } : MotorConfig Rat).klpf ∧
    ({ goodCfg with klpf := 1 } : MotorConfig Rat).klpf ≤ 1 ∧
    ∃ t, exec .est runS = .next t :=
  ⟨by decide +kernel, by decide +kernel, by decide +kernel, by decide +kernel, _, rfl⟩

theorem witness_ZeroDeltaDecaysTheEstimate :
    0 < runS.cfg.gear ∧ 0 < runS.cfg.encRes ∧ 0 < runS.cfg.sampleMs.toInt ∧ runS.lat.delta = 0 ∧
    (∃ t, exec .est runS = .next t) ∧ BlockInv idleS ∧ idleS.accepts = true ∧
    (∀ p ∈ [sample 0 80 false false, sample 0 (-1) false false], p.clean = true ∧ p.cnt = 0) :=
  ⟨by decide +kernel, by decide +kernel, by decide, rfl, ⟨_, rfl⟩, blockInv_idleS, by decide, by decide⟩

/-- A configuration with the clamp on and both bounds equal. -/
def clampedS : State := { idleS with cfg := { goodCfg with iclampEn := true, iclampLo := 5, iclampHi := 5 } }

theorem witness_IntegralClampBoundsTheIntegral :
    clampedS.cfg.iclampEn = true ∧ clampedS.cfg.iclampLo ≤ clampedS.cfg.iclampHi ∧
    (∃ t, exec .pid clampedS = .next t) ∧ clampedS.accepts = true ∧
    (∃ t, exec .tick clampedS = .next t ∧ t.lifecycle = .running) ∧
    idleS.cfg.iclampEn = false ∧ (∃ t, exec .pid idleS = .next t) :=
  ⟨rfl, by decide +kernel, ⟨_, rfl⟩, by decide, ⟨_, rfl, by decide +kernel⟩, rfl, _, rfl⟩

theorem witness_MapHandsOverTheTwoDuties :
    runS.ports.pwmFail = false ∧ 0 ≤ runS.cfg.pwmMax.toInt ∧
    0 ≤ ({ runS with cfg := MotorConfig.zero 0 } : State).cfg.pwmMax.toInt := by decide

theorem witness_MapSaturatesAtPwmMax :
    runS.ports.pwmFail = false ∧ runS.cfg.pwmMin = 0 ∧ 0 ≤ runS.cfg.pwmMax.toInt ∧
    (runS.cfg.pwmMax.toInt : Rat) < 511/2 ∧ (-2551/10 : Rat) < -(runS.cfg.pwmMax.toInt : Rat) ∧
    (∃ t, exec .map { runS with lat := { Latches.zero 0 with u := 511/2 } } = .next t) ∧
    (∃ t, exec .map { runS with lat := { Latches.zero 0 with u := -2551/10 } } = .next t) :=
  ⟨by decide, by decide, by decide, by decide +kernel, by decide +kernel, ⟨_, rfl⟩, _, rfl⟩

theorem witness_MapTruncatesTowardZero :
    runS.ports.pwmFail = false ∧ 0 ≤ runS.cfg.pwmMax.toInt ∧
    (∃ t, exec .map { runS with lat := { Latches.zero 0 with u := -999/1000 } } = .next t) :=
  ⟨by decide, by decide, _, rfl⟩

theorem witness_MapDrivesAtMostOneChannel :
    runS.ports.pwmFail = false ∧ runS.cfg.pwmMin = 0 ∧ 0 ≤ runS.cfg.pwmMax.toInt ∧
    (∃ t, exec .map { runS with lat := { Latches.zero 0 with u := -1 } } = .next t) :=
  ⟨by decide, by decide, by decide, _, rfl⟩

theorem witness_MapFailureRaisesPwmFault :
    (at_ runS (sample 0 0 false true)).ports.pwmFail = true := rfl

theorem witness_MicroOperationsWriteOnlyTheirCells :
    ∀ i ∈ [Instr.rdrst, .est, .tgt, .pid, .map, .commit],
      i.isMicro = true ∧ (∃ t, exec i runS = .next t) ∧
      (i = .rdrst → Reg.u ≠ Reg.delta) ∧ (i = .est → Reg.u ≠ .raw ∧ Reg.u ≠ .vel) ∧
      (i = .tgt → Reg.u ≠ .target) ∧
      (i = .pid → Reg.vel ≠ .pNew ∧ Reg.vel ≠ .iNew ∧ Reg.vel ≠ .dNew ∧ Reg.vel ≠ .u) ∧
      (i = .map → Reg.u ≠ .dutyA ∧ Reg.u ≠ .dutyB) ∧
      (i = .commit → Reg.u ≠ .velPrev ∧ Reg.u ≠ .pPrev ∧ Reg.u ≠ .iPrev) := by
  intro i hi
  simp only [List.mem_cons, List.not_mem_nil, or_false] at hi
  rcases hi with rfl | rfl | rfl | rfl | rfl | rfl <;>
    exact ⟨rfl, ⟨_, rfl⟩, by decide, by decide, by decide, by decide, by decide, by decide⟩

theorem witness_TickIsTheSixStepsInOrder :
    (at_ idleS (sample 10 80 false false)).accepts = true ∧ (at_ runS (sample 0 0 false false)).accepts = true ∧
    (sample 10 80 false false).cntFail = false ∧ (sample 10 80 false false).pwmFail = false := by decide

theorem witness_TickRunsOneWholeCycle :
    (at_ idleS (sample 10 80 false false)).accepts = true ∧ runS.accepts = true ∧
    (validityMask params goodCfg).any = false ∧ (sample 10 80 false false).cntFail = false ∧
    (sample 10 80 false false).pwmFail = false := by decide +kernel

theorem witness_TickOutsideIdleAndRunning :
    unconfS.lifecycle = .unconf ∧ faultS.lifecycle = .fault := ⟨rfl, rfl⟩

theorem witness_CounterFaultCutsTheCycleAtStepOne :
    (at_ idleS (sample 2 80 true false)).accepts = true ∧ (at_ idleS (sample 2 80 true false)).ports.cntFail ∧
    (at_ runS (sample 2 80 true true)).accepts = true ∧ (at_ runS (sample 2 80 true true)).ports.cntFail := by
  decide

theorem witness_PwmFaultCutsTheCycleAtStepFive :
    (at_ idleS (sample 2 80 false true)).accepts = true ∧
    (validityMask params (at_ idleS (sample 2 80 false true)).cfg).any = false ∧
    (at_ idleS (sample 2 80 false true)).ports.cntFail = false ∧
    (at_ idleS (sample 2 80 false true)).ports.pwmFail = true := by decide +kernel

theorem witness_PortsAreTouchedInTheFixedOrder :
    idleS.accepts = true ∧
    (∃ t, exec .tick (startEvent (sample 2 80 true true) idleS) = .next t) ∧
    (∃ t, exec .tick (startEvent (sample 2 80 false true) idleS) = .next t) ∧
    (∃ t, exec .tick (startEvent (sample 2 80 false false) idleS) = .next t) :=
  ⟨by decide, ⟨_, rfl⟩, ⟨_, rfl⟩, _, rfl⟩

theorem witness_TickReportsItsResult :
    (∃ t, exec .tick unconfS = .next t) ∧ (∃ t, exec .tick faultS = .next t) ∧
    (∃ t, exec .tick (at_ idleS (sample 2 80 true true)) = .next t) ∧
    (∃ t, exec .tick (at_ runS (sample 2 80 false true)) = .next t) ∧
    (∃ t, exec .tick (at_ runS (sample 2 80 false false)) = .next t) :=
  ⟨⟨_, rfl⟩, ⟨_, rfl⟩, ⟨_, rfl⟩, ⟨_, rfl⟩, _, rfl⟩

/-- Two cycles of program P5: the error is 100 in each. -/
theorem witness_IntegralIsARunningSum :
    let s : State := { idleS with cfg := { goodCfg with gear := 1, encRes := 60, sampleMs := 1000 } }
    let ps := [sample 0 100 false false, sample 0 100 false false]
    s.accepts = true ∧ s.cfg.iclampEn = false ∧ (∀ p ∈ ps, p.clean = true) ∧
    (∀ t ∈ cycles ps s, t.lat.pNew = 100) := by decide +kernel

theorem witness_ReversalNegatesTheTargetOnly :
    ({ idleS with cfg := { goodCfg with reverse := true } } : State).cfg.reverse = true := rfl

end Sys2Proof.Tests
end

section
/-! SUPPORT. The formulas of the block as operations of `Num` applied one at a time, over any carrier
(00_scope.md R10), and the micro-operations that evaluate them. -/

namespace Sys2Proof.Machine

variable {N : Type} (P : Params N)

/-! ### The formulas -/

theorem rawSpeed_written (c : MotorConfig N) (delta : I32) :
    rawSpeed P c delta =
      P.mul (P.div (P.ofInt delta.toInt) (P.mul c.gear c.encRes))
        (P.div (P.ofInt 60000) (P.ofInt c.sampleMs.toInt)) := rfl

theorem filtered_written (k prev raw : N) :
    filtered P k prev raw = P.add (P.mul k prev) (P.mul (P.sub (P.ofInt 1) k) raw) := rfl

theorem clampN_written (v lo hi : N) :
    clampN P v lo hi = if P.lt v lo then lo else if P.lt hi v then hi else v := rfl

theorem integral_written (c : MotorConfig N) (iPrev p : N) :
    integral P c iPrev p =
      if c.iclampEn then clampN P (P.add iPrev p) c.iclampLo c.iclampHi else P.add iPrev p := rfl

theorem controlOutput_written (c : MotorConfig N) (p i d : N) :
    controlOutput P c p i d =
      if c.enD then P.add (P.add (P.mul c.kp p) (P.mul c.ki i)) (P.mul c.kd d)
      else P.add (P.mul c.kp p) (P.mul c.ki i) := rfl

/-- The two sides of R136 and R137, each with the limits 0 and `PWM_MAX` of R138. -/
theorem pwmCommand_written (c : MotorConfig N) (u : N) :
    pwmCommand P c u =
      if P.ge u (P.ofInt 0) then
        { a := BitVec.ofInt 32 (P.trunc (clampN P u (P.ofInt 0) (P.ofInt c.pwmMax.toInt)))
          b := c.pwmMin }
      else
        { a := c.pwmMin
          b := BitVec.ofInt 32 (P.trunc
            (clampN P (P.sub (P.ofInt 0) u) (P.ofInt 0) (P.ofInt c.pwmMax.toInt))) } := rfl

/-! ### What the micro-operations leave in the cells the formulas are for -/

variable (s : State.Of N)

theorem est_raw : (est P s).lat.raw = rawSpeed P s.cfg s.lat.delta := by rw [est_eq]

theorem est_vel : (est P s).ctl.vel = filtered P s.cfg.klpf s.ctl.velPrev (est P s).lat.raw := by
  rw [est_eq]

theorem tgt_target :
    (tgt P s).ctl.target =
      if s.cfg.reverse then P.sub (P.ofInt 0) s.ports.tgt else s.ports.tgt := by
  rw [tgt_eq]; rfl

theorem pid_pNew : (pid P s).lat.pNew = P.sub s.ctl.target s.ctl.vel := by rw [pid_eq]

theorem pid_iNew : (pid P s).lat.iNew = integral P s.cfg s.ctl.iPrev (pid P s).lat.pNew := by
  rw [pid_eq]

theorem pid_dNew : (pid P s).lat.dNew = P.sub (pid P s).lat.pNew s.ctl.pPrev := by rw [pid_eq]

theorem pid_u :
    (pid P s).lat.u =
      controlOutput P s.cfg (pid P s).lat.pNew (pid P s).lat.iNew (pid P s).lat.dNew := by
  rw [pid_eq]

theorem map_duty (h : s.ports.pwmFail = false) : (map P s).duty = pwmCommand P s.cfg s.lat.u := by
  rw [map_ok P s h]

end Sys2Proof.Machine

namespace Sys2Proof.Proofs

open Sys2Proof.Machine

/-- Settles O55: each cell holds its formula's value, and each formula is the operations of `Num` as written. -/
theorem formulasAreEvaluatedInTheWrittenOrder : Obligations.FormulasAreEvaluatedInTheWrittenOrder := by
  intro N P s
  refine ⟨⟨?raw, ?vel⟩, ?target, ⟨?pNew, ?iNew, ?dNew, ?u⟩, ?duty⟩
  case raw => exact (est_raw P s).trans (rawSpeed_written P s.cfg s.lat.delta)
  case vel => exact (est_vel P s).trans (filtered_written P ..)
  case target => exact tgt_target P s
  case pNew => exact pid_pNew P s
  case iNew =>
    calc (pid P s).lat.iNew
      _ = integral P s.cfg s.ctl.iPrev (pid P s).lat.pNew := pid_iNew P s
      _ = _ := by rw [integral_written, clampN_written]; rfl
  case dNew => exact pid_dNew P s
  case u => exact (pid_u P s).trans (controlOutput_written P ..)
  case duty =>
    intro hok limited
    calc (map P s).duty
      _ = pwmCommand P s.cfg s.lat.u := map_duty P s hok
      _ = _ := by rw [pwmCommand_written, clampN_written, clampN_written]

end Sys2Proof.Proofs
end

section
/-! SUPPORT. Everything an operation outside the micro-program can do to the cells, over any carrier
(45_loop_driver.md R145 to R153, 46_host_access_and_construction.md R160 to R172). -/

namespace Sys2Proof.Machine

variable {N : Type}

/-! ### States with the same cells -/

/-- A state with the cells of another differs from it in what is outside the block and in the outputs. -/
theorem eq_of_sameCells {s t : State.Of N} (h : t.sameCells s) :
    t = { s with
      ports := t.ports, pwmExt := t.pwmExt, arrivals := t.arrivals, out := t.out
      portLog := t.portLog, freeCount := t.freeCount } := by
  obtain ⟨hl, hf, hp, hc, hd, hg, hk, hy, ha⟩ := h
  simp only [← hl, ← hf, ← hp, ← hc, ← hd, ← hg, ← hk, ← hy, ← ha]

theorem accepts_iff (s : State.Of N) :
    s.accepts = true ↔ s.lifecycle = .idle ∨ s.lifecycle = .running := by
  simp [State.Of.accepts]

theorem ne_unconf_of_accepts {s : State.Of N} (h : s.accepts = true) : s.lifecycle ≠ .unconf := by
  rcases (accepts_iff s).mp h with hl | hl <;> simp [hl]

theorem ne_fault_of_accepts {s : State.Of N} (h : s.accepts = true) : s.lifecycle ≠ .fault := by
  rcases (accepts_iff s).mp h with hl | hl <;> simp [hl]

/-! ### The outcomes -/

/-- What the cells of `t` are after an operation outside the micro-program on `s`, the store of a
configuration cell apart. -/
inductive HostOutcome (P : Params N) (s t : State.Of N) : Prop
  /-- A drop, a read of a cell, or a command without effect. -/
  | unchanged (cells : t.sameCells s)
  /-- A recorded exception; a rejected `INIT` leaves its mask in `CFGDETAIL` as well. -/
  | recorded (e : Exc) (d : CfgDetail) (live : s.lifecycle ≠ .fault) (he : e.fatal = false)
      (cells : t.sameCells (raise e { s with cfgDetail := d }))
  /-- An `INIT` that succeeds (R171). -/
  | constructed (unconf : s.lifecycle = .unconf) (valid : (validityMask P s.cfg).any = false)
      (cells : t.sameCells { s with
        cfgDetail := validityMask P s.cfg, ctl := ControllerState.zero (P.ofInt 0)
        lat := Latches.zero (P.ofInt 0), lifecycle := .idle })
  /-- A whole cycle (R146). -/
  | completed (accepts : s.accepts = true) (v : CycleValues P s)
      (cells : t.sameCells { s with
        lifecycle := .running, phase := 0, lat := v.latches
        ctl := { vel := v.vel, velPrev := v.vel, pPrev := v.p, iPrev := v.i, target := v.target }
        duty := pwmCommand P s.cfg v.u })
  /-- A cycle cut at step 5 (60_exceptions.md R192). -/
  | pwmFaulted (accepts : s.accepts = true) (v : CycleValues P s)
      (cells : t.sameCells { s with
        lifecycle := .fault, phase := 5, cause := some .pwmFault, lat := v.latches
        ctl := { s.ctl with vel := v.vel, target := v.target } })
  /-- A cycle cut at step 1 (60_exceptions.md R192). -/
  | cntFaulted (accepts : s.accepts = true)
      (cells : t.sameCells { s with lifecycle := .fault, phase := 1, cause := some .cntFault })

variable (P : Params N) (s : State.Of N)

theorem HostOutcome.of_eq {t : State.Of N} (h : t = s) : HostOutcome P s t :=
  .unchanged (by simp [h, State.Of.sameCells])

theorem HostOutcome.of_raise {t : State.Of N} {e : Exc} (live : s.lifecycle ≠ .fault)
    (he : e.fatal = false) (h : t = raise e s) : HostOutcome P s t :=
  .recorded e s.cfgDetail live he (by simp [h, State.Of.sameCells])

theorem tick_outcome : HostOutcome P s (tick P s) := by
  obtain ⟨hl, ht⟩ | ⟨-, ht⟩ | ⟨ha, hc⟩ | ⟨ha, hc, hp⟩ | ⟨ha, hc, hp⟩ := tick_cases P s
  · exact .recorded .illCmd s.cfgDetail (by simp [hl]) rfl (by simp [ht, State.Of.sameCells])
  · exact .unchanged (by simp [ht, State.Of.sameCells])
  · exact .cntFaulted ha (by simp [tick_cntFault P s ha hc, State.Of.sameCells])
  · obtain ⟨v, ht⟩ := tick_pwmFault P s ha hc hp
    exact .pwmFaulted ha v (by simp [ht, State.Of.sameCells])
  · obtain ⟨v, ht⟩ := tick_complete P s ha hc hp
    exact .completed ha v (by simp [ht, State.Of.sameCells])

theorem init_outcome : HostOutcome P s (init P s) := by
  obtain ⟨-, ht⟩ | ⟨ha, ht⟩ | ⟨hl, -, ht⟩ | ⟨hl, hv, ht⟩ := init_cases P s
  · exact .of_eq P s ht
  · exact .of_raise P s (ne_fault_of_accepts ha) rfl ht
  · exact .recorded .cfgErr (validityMask P s.cfg) (by simp [hl]) rfl (by simp [ht, State.Of.sameCells])
  · exact .constructed hl hv (by simp [ht, State.Of.sameCells])

theorem rd_outcome (n : RegNum) : HostOutcome P s (rd n s) := by
  obtain ⟨r, -, ht⟩ | ⟨-, -, ht⟩ | ⟨-, hl, ht⟩ := rd_cases n s
  · exact .unchanged (by simp [ht, State.Of.sameCells])
  · exact .unchanged (by simp [ht, State.Of.sameCells])
  · exact .recorded .illAddr s.cfgDetail hl rfl (by simp [ht, State.Of.sameCells])

/-- A write has the outcome of a command or of a refusal, or stores a configuration cell (R161). -/
theorem wr_outcome (n : RegNum) (v : Payload N) :
    HostOutcome P s (wr P n v s) ∨
      (s.lifecycle = .unconf ∧ ∃ r : Reg, wr P n v s = { s with cfg := storeConfig r v s.cfg }) := by
  obtain ⟨-, ht | ⟨-, -, ht⟩⟩ | ⟨hl, -, ht⟩ | ⟨hl, -, ht⟩ | ⟨-, -, -, ht⟩ | ⟨-, -, -, ht⟩ |
    ⟨-, -, -, ht⟩ | ⟨hl, -, -, ht⟩ | ⟨hl, r, -, -, -, ht⟩ := wr_cases P n v s
  · exact .inl (.of_eq P s ht)
  · exact .inl (.unchanged (by simp [ht, State.Of.sameCells]))
  · exact .inl (.of_raise P s hl rfl ht)
  · exact .inl (.of_raise P s hl rfl ht)
  · exact .inl (.of_eq P s ht)
  · exact .inl (ht ▸ init_outcome P s)
  · exact .inl (ht ▸ tick_outcome P s)
  · exact .inl (.of_raise P s hl rfl ht)
  · exact .inr ⟨hl, r, ht⟩

/-- Everything an operation outside the micro-program can do. -/
theorem effect_outcome (i : Instr N) (hi : i.isMicro = false) :
    HostOutcome P s (effect P i s) ∨
      (s.lifecycle = .unconf ∧ ∃ n r v, i = .wr n v ∧
        effect P i s = { s with cfg := storeConfig r v s.cfg }) := by
  cases i with
  | nop => exact .inl (.of_eq P s rfl)
  | init => exact .inl (init_outcome P s)
  | tick => exact .inl (tick_outcome P s)
  | rd n => exact .inl (rd_outcome P s n)
  | wr n v =>
    obtain h | ⟨hl, r, h⟩ := wr_outcome P s n v
    · exact .inl h
    · exact .inr ⟨hl, n, r, v, rfl, h⟩
  | rdrst | est | tgt | pid | map | commit => cases hi

/-! ### What every outcome keeps -/

variable {P s}

/-- No outcome but a store writes MotorConfig (10_state.md R32). -/
theorem HostOutcome.cfg_eq {t : State.Of N} (h : HostOutcome P s t) : t.cfg = s.cfg := by
  cases h with
  | recorded _ _ _ _ cells => rw [eq_of_sameCells cells]; exact raise_cfg ..
  | unchanged cells | constructed _ _ cells | completed _ _ cells | pwmFaulted _ _ cells
  | cntFaulted _ cells => rw [eq_of_sameCells cells]

/-- No outcome clears a sticky flag (10_state.md R24). -/
theorem HostOutcome.keeps_flag {t : State.Of N} (h : HostOutcome P s t) (e : Exc)
    (hs : s.flags.has e = true) : t.flags.has e = true := by
  cases h with
  | recorded e' _ _ _ cells =>
    rw [eq_of_sameCells cells]
    simpa using StickyFlags.set_keeps _ e' e hs
  | unchanged cells | constructed _ _ cells | completed _ _ cells | pwmFaulted _ _ cells
  | cntFaulted _ cells => rw [eq_of_sameCells cells]; exact hs

/-- The duties change only in a cycle that completes (44_pwm_mapper.md R140). -/
theorem HostOutcome.duty_cases {t : State.Of N} (h : HostOutcome P s t) :
    t.duty = s.duty ∨ (s.accepts = true ∧ ∃ u, t.duty = pwmCommand P s.cfg u) := by
  cases h with
  | completed ha v cells => exact .inr ⟨ha, v.u, by rw [eq_of_sameCells cells]⟩
  | recorded _ _ _ _ cells => left; rw [eq_of_sameCells cells]; exact raise_duty ..
  | unchanged cells | constructed _ _ cells | pwmFaulted _ _ cells | cntFaulted _ cells =>
    left; rw [eq_of_sameCells cells]

end Sys2Proof.Machine
end

section
/-! SUPPORT. The invariant of the block between events under each outcome and under a step, over any
carrier; and the ranges of the duties in the reference carrier (10_state.md R25, R44 to R50). -/

namespace Sys2Proof.Machine

variable {N : Type} {P : Params N} {s t : State.Of N}

/-! ### The facts about single values -/

/-- What PWM_BAD clear says (46_host_access_and_construction.md R170). -/
theorem pwm_of_valid {c : MotorConfig N} (h : (validityMask P c).any = false) :
    c.pwmMin = 0 ∧ 0 ≤ c.pwmMax.toInt := by
  simp only [CfgDetail.any, validityMask, Bool.or_eq_false_iff, decide_eq_false_iff_not, not_not,
    not_lt] at h
  obtain ⟨⟨⟨-, hmin, hmax⟩, -⟩, -⟩ := h
  exact ⟨hmin, hmax⟩

/-- One channel is idle at `PWM_MIN` (44_pwm_mapper.md R141). -/
theorem pwmCommand_idle (c : MotorConfig N) (u : N) :
    (pwmCommand P c u).a = c.pwmMin ∨ (pwmCommand P c u).b = c.pwmMin := by
  unfold pwmCommand
  split
  · exact .inr rfl
  · exact .inl rfl

/-- A sign-extended count is in the range of the counter (10_state.md R45). -/
theorem signExtend_count_range (c : I16) :
    -32768 ≤ (c.signExtend 32).toInt ∧ (c.signExtend 32).toInt ≤ 32767 := by
  have hlo := BitVec.le_toInt c
  have hhi := BitVec.toInt_lt (x := c)
  rw [signExtend_count]
  omega

/-! ### The control part -/

namespace ControlInv

/-- The invariant is about cells only. -/
theorem of_sameCells (h : ControlInv P s) (hc : t.sameCells s) : ControlInv P t := by
  rw [eq_of_sameCells hc]
  exact ⟨h.phaseOutside, h.phaseInFault, h.causeFlagged, h.fatalOnlyInFault, h.configured,
    h.exclusive, h.deltaRange, h.committed, h.unstarted⟩

theorem zeroed : ControlInv P (State.zeroed (P.ofInt 0)) where
  phaseOutside _ := rfl
  phaseInFault h := nomatch h
  causeFlagged _ h := nomatch h
  fatalOnlyInFault _ h := nomatch h
  configured h := absurd rfl h
  exclusive := .inl rfl
  deltaRange := by simp [State.zeroed, Latches.zero]
  committed _ := ⟨rfl, rfl, rfl⟩
  unstarted _ := ⟨rfl, rfl, rfl⟩

theorem recorded (h : ControlInv P s) (live : s.lifecycle ≠ .fault) {e : Exc}
    (he : e.fatal = false) (d : CfgDetail) : ControlInv P (raise e { s with cfgDetail := d }) := by
  rw [raise_recorded _ _ he]
  exact
    { h with
      phaseInFault := fun hf => absurd hf live
      causeFlagged := fun e' hc _ => by
        cases hc
        exact StickyFlags.set_has _ e he
      fatalOnlyInFault := fun e' hc hf => by
        cases hc
        exact absurd hf (by simp [he]) }

/-- Outside FAULT `CAUSE` holds no fatal code. -/
theorem cause_not_fatal (h : ControlInv P s) (live : s.lifecycle ≠ .fault) {e : Exc}
    (hc : s.cause = some e) : e.fatal ≠ true :=
  fun he => live (h.fatalOnlyInFault e hc he)

theorem constructed (h : ControlInv P s) (unconf : s.lifecycle = .unconf)
    (valid : (validityMask P s.cfg).any = false) (d : CfgDetail) :
    ControlInv P { s with
      cfgDetail := d, ctl := ControllerState.zero (P.ofInt 0)
      lat := Latches.zero (P.ofInt 0), lifecycle := .idle } where
  phaseOutside _ := h.phaseOutside (by simp [unconf])
  phaseInFault hf := nomatch hf
  causeFlagged := h.causeFlagged
  fatalOnlyInFault _ hc he := absurd he (h.cause_not_fatal (by simp [unconf]) hc)
  configured _ := valid
  exclusive := h.exclusive
  deltaRange := by simp [Latches.zero]
  committed _ := ⟨rfl, rfl, rfl⟩
  unstarted _ := ⟨rfl, rfl, (h.unstarted (.inl unconf)).2.2⟩

theorem completed (h : ControlInv P s) (ha : s.accepts = true) (v : CycleValues P s) :
    ControlInv P { s with
      lifecycle := .running, phase := 0, lat := v.latches
      ctl := { vel := v.vel, velPrev := v.vel, pPrev := v.p, iPrev := v.i, target := v.target }
      duty := pwmCommand P s.cfg v.u } where
  phaseOutside _ := rfl
  phaseInFault hf := nomatch hf
  causeFlagged := h.causeFlagged
  fatalOnlyInFault _ hc he := absurd he (h.cause_not_fatal (ne_fault_of_accepts ha) hc)
  configured _ := h.configured (ne_unconf_of_accepts ha)
  exclusive := by
    have hmin := (pwm_of_valid (h.configured (ne_unconf_of_accepts ha))).1
    exact hmin ▸ pwmCommand_idle s.cfg v.u
  deltaRange := signExtend_count_range _
  committed _ := ⟨rfl, rfl, rfl⟩
  unstarted hl := by simp at hl

theorem pwmFaulted (h : ControlInv P s) (ha : s.accepts = true) (v : CycleValues P s) :
    ControlInv P { s with
      lifecycle := .fault, phase := 5, cause := some .pwmFault, lat := v.latches
      ctl := { s.ctl with vel := v.vel, target := v.target } } where
  phaseOutside hl := absurd rfl hl
  phaseInFault _ := .inr ⟨rfl, rfl⟩
  causeFlagged _ hc he := by cases hc; cases he
  fatalOnlyInFault _ _ _ := rfl
  configured _ := h.configured (ne_unconf_of_accepts ha)
  exclusive := h.exclusive
  deltaRange := signExtend_count_range _
  committed hl := absurd rfl hl
  unstarted hl := by simp at hl

theorem cntFaulted (h : ControlInv P s) (ha : s.accepts = true) :
    ControlInv P { s with lifecycle := .fault, phase := 1, cause := some .cntFault } where
  phaseOutside hl := absurd rfl hl
  phaseInFault _ := .inl ⟨rfl, rfl⟩
  causeFlagged _ hc he := by cases hc; cases he
  fatalOnlyInFault _ _ _ := rfl
  configured _ := h.configured (ne_unconf_of_accepts ha)
  exclusive := h.exclusive
  deltaRange := h.deltaRange
  committed hl := absurd rfl hl
  unstarted hl := by simp at hl

/-- In UNCONF the invariant does not rest on the configuration. -/
theorem stored (h : ControlInv P s) (unconf : s.lifecycle = .unconf) (c : MotorConfig N) :
    ControlInv P { s with cfg := c } :=
  { h with configured := fun hl => absurd unconf hl }

theorem after_outcome (h : ControlInv P s) (ho : HostOutcome P s t) : ControlInv P t := by
  cases ho with
  | unchanged cells => exact h.of_sameCells cells
  | recorded e d live he cells => exact (h.recorded live he d).of_sameCells cells
  | constructed unconf valid cells => exact (h.constructed unconf valid _).of_sameCells cells
  | completed ha v cells => exact (h.completed ha v).of_sameCells cells
  | pwmFaulted ha v cells => exact (h.pwmFaulted ha v).of_sameCells cells
  | cntFaulted ha cells => exact (h.cntFaulted ha).of_sameCells cells

theorem after_effect (h : ControlInv P s) (i : Instr N) (hi : i.isMicro = false) :
    ControlInv P (effect P i s) := by
  obtain ho | ⟨unconf, _, _, _, -, ht⟩ := effect_outcome P s i hi
  · exact h.after_outcome ho
  · exact ht ▸ h.stored unconf _

/-- Between events no cycle is under way (10_state.md R50). -/
theorem midCycle_eq_false (h : ControlInv P s) : s.midCycle = false := by
  by_cases hl : s.lifecycle = .running
  · have hp := h.phaseOutside (by simp [hl])
    simp [State.Of.midCycle, hp]
  · simp [State.Of.midCycle, hl]

end ControlInv

/-- Everything a step between events can do: nothing, RESET, or an operation outside the micro-program
on a state with the same cells. -/
theorem stepWith_between (hm : s.midCycle = false) (h : stepWith P s = .next t) :
    t.sameCells s ∨ t.sameCells (State.zeroed (P.ofInt 0)) ∨
      ∃ (i : Instr N) (s' : State.Of N), i.isMicro = false ∧ s'.sameCells s ∧ effect P i s' = t := by
  obtain ⟨hm', -⟩ | ⟨-, a, n, rfl⟩ | ⟨a, rest, -, -, rfl⟩ | ⟨-, i, p, a, n, hi, ht⟩ :=
    stepWith_cases P s t h
  · simp [hm] at hm'
  · exact .inl (by simp [State.Of.sameCells])
  · exact .inr (.inl (by simp [State.Of.sameCells, State.zeroed]))
  · refine .inr (.inr ⟨i, _, ?_, ?_, ht⟩)
    · obtain rfl | ⟨x, rfl⟩ | ⟨x, v, rfl⟩ := hi <;> rfl
    · simp [State.Of.sameCells]

theorem ControlInv.after_step (h : ControlInv P s) (hs : stepWith P s = .next t) :
    ControlInv P t := by
  obtain hc | hc | ⟨i, s', hi, hc, rfl⟩ := stepWith_between h.midCycle_eq_false hs
  · exact h.of_sameCells hc
  · exact zeroed.of_sameCells hc
  · exact (h.of_sameCells hc).after_effect i hi

/-! ### The ranges of the duties -/

/-- A duty is 0 or in [0, `PWM_MAX`] (10_state.md R44). -/
def DutyInRange (pwmMax d : I32) : Prop := d = 0 ∨ (0 ≤ d.toInt ∧ d.toInt ≤ pwmMax.toInt)

/-- Both duties are in range. -/
def DutiesInRange (s : State) : Prop :=
  DutyInRange s.cfg.pwmMax s.duty.a ∧ DutyInRange s.cfg.pwmMax s.duty.b

theorem blockInv_iff (s : State) : BlockInv s ↔ ControlInv params s ∧ DutiesInRange s :=
  ⟨fun h => ⟨h.toControlInv, h.dutyARange, h.dutyBRange⟩, fun ⟨h, ha, hb⟩ => ⟨h, ha, hb⟩⟩

theorem dutiesInRange_of_zero {s : State} (h : s.duty = { a := 0, b := 0 }) : DutiesInRange s :=
  ⟨.inl (by rw [h]), .inl (by rw [h])⟩

/-- With legal bounds MAP's duties are in range (44_pwm_mapper.md R138, R141). -/
theorem pwmCommand_inRange {c : MotorConfig Num} (hmin : c.pwmMin = 0) (hmax : 0 ≤ c.pwmMax.toInt)
    (u : Num) :
    DutyInRange c.pwmMax (pwmCommand params c u).a ∧
      DutyInRange c.pwmMax (pwmCommand params c u).b := by
  unfold pwmCommand
  split
  next hu =>
    have hu' : 0 ≤ u := by simpa using hu
    exact ⟨.inr (dutyOf_toInt _ u hmax hu').2, .inl hmin⟩
  next hu =>
    have hu' : 0 ≤ negN params u := by
      have : u < 0 := by simpa using hu
      simpa using this.le
    exact ⟨.inl hmin, .inr (dutyOf_toInt _ _ hmax hu').2⟩

theorem DutiesInRange.after_outcome {s t : State} (hd : DutiesInRange s) (h : ControlInv params s)
    (ho : HostOutcome params s t) : DutiesInRange t := by
  unfold DutiesInRange
  rw [ho.cfg_eq]
  obtain hs | ⟨ha, u, hu⟩ := ho.duty_cases
  · rw [hs]; exact hd
  · obtain ⟨hmin, hmax⟩ := pwm_of_valid (h.configured (ne_unconf_of_accepts ha))
    rw [hu]; exact pwmCommand_inRange hmin hmax u

theorem DutiesInRange.of_sameCells {s t : State} (hd : DutiesInRange s) (hc : t.sameCells s) :
    DutiesInRange t := by
  rw [eq_of_sameCells hc]; exact hd

namespace BlockInv

theorem of_sameCells {s t : State} (h : BlockInv s) (hc : t.sameCells s) : BlockInv t := by
  obtain ⟨hi, hd⟩ := (blockInv_iff s).mp h
  exact (blockInv_iff t).mpr ⟨hi.of_sameCells hc, hd.of_sameCells hc⟩

theorem zeroed : BlockInv (State.zeroed (params.ofInt 0)) :=
  (blockInv_iff _).mpr ⟨ControlInv.zeroed, dutiesInRange_of_zero rfl⟩

theorem after_effect {s : State} (h : BlockInv s) (i : Instr) (hi : i.isMicro = false) :
    BlockInv (effect params i s) := by
  obtain ⟨hc, hd⟩ := (blockInv_iff s).mp h
  refine (blockInv_iff _).mpr ⟨hc.after_effect i hi, ?_⟩
  obtain ho | ⟨unconf, _, _, _, -, ht⟩ := effect_outcome params s i hi
  · exact hd.after_outcome hc ho
  · exact dutiesInRange_of_zero (ht ▸ (hc.unstarted (.inl unconf)).2.2)

theorem after_step {s t : State} (h : BlockInv s) (hs : step s = .next t) : BlockInv t := by
  rw [step_eq_stepWith] at hs
  obtain hc | hc | ⟨i, s', hi, hc, rfl⟩ := stepWith_between h.midCycle_eq_false hs
  · exact h.of_sameCells hc
  · exact zeroed.of_sameCells hc
  · exact (h.of_sameCells hc).after_effect i hi

end BlockInv

end Sys2Proof.Machine

namespace Sys2Proof.Proofs

open Sys2Proof.Machine

/-- Settles O58: by the outcomes of the operations outside the micro-program, since between events no
cycle is under way. -/
theorem everyInstantiationKeepsTheControlInvariant :
    Obligations.EveryInstantiationKeepsTheControlInvariant :=
  fun _ _ => ⟨ControlInv.zeroed, fun _ _ h hs => h.after_step hs⟩

/-- Settles O9: the control part is kept in any carrier, and a new pair of duties comes only from a
completed cycle of a valid configuration. -/
theorem everyStepKeepsTheInvariant : Obligations.EveryStepKeepsTheInvariant :=
  fun _ _ h hs => h.after_step hs

end Sys2Proof.Proofs
end

section
/-! SUPPORT. The frame of the micro-operations, the stops of a step, writes to MotorConfig, and which part
of an operation rests on the parameters (10_state.md R32, R37 to R48, R55). -/

namespace Sys2Proof.Machine

variable {N : Type}

/-! ### The frame of the micro-operations -/

/-- The cells the rule of a micro-operation lists (10_state.md R37 to R48). -/
def microWrites : Instr N → List Reg
  | .rdrst => [.delta]
  | .est => [.raw, .vel]
  | .tgt => [.target]
  | .pid => [.pNew, .iNew, .dNew, .u]
  | .map => [.dutyA, .dutyB]
  | .commit => [.velPrev, .pPrev, .iPrev]
  | .nop | .init | .tick | .rd _ | .wr _ _ => []

/-- What no micro-operation changes (10_state.md R37 to R48; 60_exceptions.md R190). -/
structure MicroFrame (s t : State.Of N) : Prop where
  flags : t.flags = s.flags
  cfg : t.cfg = s.cfg
  cfgDetail : t.cfgDetail = s.cfgDetail
  arrivals : t.arrivals = s.arrivals
  out : t.out = s.out
  live : t.lifecycle ≠ .fault → t.cause = s.cause ∧ t.lifecycle = s.lifecycle

theorem rdrst_frame (s : State.Of N) : MicroFrame s (rdrst s) := by
  cases hc : s.ports.cntFail with
  | false => rw [rdrst_ok s hc]; exact ⟨rfl, rfl, rfl, rfl, rfl, fun _ => ⟨rfl, rfl⟩⟩
  | true => rw [rdrst_fault s hc]; exact ⟨rfl, rfl, rfl, rfl, rfl, fun hl => absurd rfl hl⟩

theorem map_frame (P : Params N) (s : State.Of N) : MicroFrame s (map P s) := by
  cases hp : s.ports.pwmFail with
  | false => rw [map_ok P s hp]; exact ⟨rfl, rfl, rfl, rfl, rfl, fun _ => ⟨rfl, rfl⟩⟩
  | true => rw [map_fault P s hp]; exact ⟨rfl, rfl, rfl, rfl, rfl, fun hl => absurd rfl hl⟩

theorem effect_microFrame (P : Params N) (i : Instr N) (s : State.Of N) (hi : i.isMicro = true) :
    MicroFrame s (effect P i s) := by
  cases i with
  | rdrst => exact rdrst_frame s
  | map => exact map_frame P s
  | est | tgt | pid | commit => exact ⟨rfl, rfl, rfl, rfl, rfl, fun _ => ⟨rfl, rfl⟩⟩
  | nop | init | tick | rd _ | wr _ _ => cases hi

/-- A fatal exception shows in STATUS and CAUSE only. -/
theorem readCell_fatal (r : Reg) (s : State.Of N) (e : Exc) (hs : r ≠ .status) (hc : r ≠ .cause) :
    readCell r { s with cause := some e, lifecycle := .fault } = readCell r s := by
  cases r <;> trivial

theorem readCell_rdrst (r : Reg) (s : State.Of N) (hs : r ≠ .status) (hc : r ≠ .cause)
    (hd : r ≠ .delta) : readCell r (rdrst s) = readCell r s := by
  cases hf : s.ports.cntFail with
  | false => rw [rdrst_ok s hf]; cases r <;> trivial
  | true => rw [rdrst_fault s hf]; exact readCell_fatal r s _ hs hc

theorem readCell_map (P : Params N) (r : Reg) (s : State.Of N) (hs : r ≠ .status) (hc : r ≠ .cause)
    (ha : r ≠ .dutyA) (hb : r ≠ .dutyB) : readCell r (map P s) = readCell r s := by
  cases hf : s.ports.pwmFail with
  | false => rw [map_ok P s hf]; cases r <;> trivial
  | true =>
    rw [map_fault P s hf, readCell_fatal r (pwmWriteFailed s) _ hs hc]
    cases r <;> trivial

/-- A micro-operation leaves every cell but STATUS, CAUSE and those its rule lists. -/
theorem readCell_micro (P : Params N) (i : Instr N) (r : Reg) (s : State.Of N)
    (hi : i.isMicro = true) (hs : r ≠ .status) (hc : r ≠ .cause) (hw : r ∉ microWrites i) :
    readCell r (effect P i s) = readCell r s := by
  cases i with
  | rdrst => exact readCell_rdrst r s hs hc (by simpa [microWrites] using hw)
  | map =>
    obtain ⟨ha, hb⟩ : r ≠ .dutyA ∧ r ≠ .dutyB := by simpa [microWrites] using hw
    exact readCell_map P r s hs hc ha hb
  | est | tgt | pid | commit =>
    cases r <;> simp [microWrites, effect, est_eq, tgt_eq, pid_eq, commit_eq, readCell] at hs hw ⊢
  | nop | init | tick | rd _ | wr _ _ => cases hi

/-! ### The stops of a step -/

/-- Only inside a cycle is there a fetch without a micro-program entry (30_encoding.md R87). -/
theorem midCycle_of_noMicroWord {s : State.Of N} (h : fetchNext s = .noMicroWord) :
    s.midCycle = true := by
  have wire (w : Wire N) (r : TickRecord N) (s1 : State.Of N) : fetchWire w r s1 ≠ .noMicroWord := by
    unfold fetchWire
    cases decodeSample r <;> cases decode w <;> nofun
  by_contra hm
  unfold fetchNext at h
  rw [if_neg (by simp [hm])] at h
  split at h
  · cases h
  · cases h
  · cases h
  · exact wire _ _ _ h
  · exact wire _ _ _ h

/-- The only fault of a step is a fetch without a micro-program entry (log 8). -/
theorem noMicroWord_of_stepWith_fault {P : Params N} {s : State.Of N} {f : Fault}
    (h : stepWith P s = .fault f) : fetchNext s = .noMicroWord := by
  unfold stepWith at h
  split at h
  case h_4 hn => exact hn
  all_goals cases h

/-! ### Writes to MotorConfig -/

theorem ne_cmd_of_motorConfig {r : Reg} (hr : r.bank = .motorConfig) : r ≠ .cmd := by
  rintro rfl
  cases hr

/-- A write past UNCONF is denied (10_state.md R32). -/
theorem wr_config_accepts (P : Params N) (r : Reg) (v : Payload N) (s : State.Of N)
    (hr : r.bank = .motorConfig) (ha : s.accepts = true) :
    wr P r.number v s = raise .wrDenied s := by
  simp [wr, writeLive, hr, ne_cmd_of_motorConfig hr, ne_fault_of_accepts ha, ne_unconf_of_accepts ha]

/-- A write in FAULT is dropped (46_host_access_and_construction.md R162). -/
theorem wr_config_fault (P : Params N) (r : Reg) (v : Payload N) (s : State.Of N)
    (hr : r.bank = .motorConfig) (hf : s.lifecycle = .fault) : wr P r.number v s = s := by
  cases v <;> simp [wr, dropWrite, hf, ne_cmd_of_motorConfig hr]

/-- MotorConfig changes only in UNCONF and only by a write (10_state.md R32). -/
theorem effect_cfg (P : Params N) (i : Instr N) (s : State.Of N)
    (h : s.lifecycle ≠ .unconf ∨ ∀ a v, i ≠ .wr a v) : (effect P i s).cfg = s.cfg := by
  cases hi : i.isMicro with
  | true => exact (effect_microFrame P i s hi).cfg
  | false =>
    obtain ho | ⟨unconf, n, -, v, hwr, -⟩ := effect_outcome P s i hi
    · exact ho.cfg_eq
    · exact (h.elim (· unconf) (· n v hwr)).elim

theorem effect_keeps_flag (P : Params N) (i : Instr N) (s : State.Of N) (e : Exc)
    (hs : s.flags.has e = true) : (effect P i s).flags.has e = true := by
  cases hi : i.isMicro with
  | true => rw [(effect_microFrame P i s hi).flags]; exact hs
  | false =>
    obtain ho | ⟨_, _, _, _, _, ht⟩ := effect_outcome P s i hi
    · exact ho.keeps_flag e hs
    · rw [ht]; exact hs

/-! ### The part of an operation that rests on no parameter -/

/-- The two states differ at most in numbers, the duties, the external duties and the outputs. -/
def SameControl (t u : State.Of N) : Prop :=
  t.lifecycle = u.lifecycle ∧ t.flags = u.flags ∧ t.phase = u.phase ∧ t.cause = u.cause ∧
  t.cfgDetail = u.cfgDetail ∧ t.cfg = u.cfg ∧ t.lat.delta = u.lat.delta ∧ t.ports = u.ports ∧
  t.arrivals = u.arrivals ∧ t.freeCount = u.freeCount

variable (P Q : Params N) (s : State.Of N)

theorem SameControl.of_eq {t u : State.Of N} (h : t = u) : SameControl t u := by
  subst h
  exact ⟨rfl, rfl, rfl, rfl, rfl, rfl, rfl, rfl, rfl, rfl⟩

theorem map_sameControl : SameControl (map P s) (map Q s) := by
  cases hp : s.ports.pwmFail with
  | false => rw [map_ok P s hp, map_ok Q s hp]; simp [SameControl]
  | true => exact .of_eq (by rw [map_fault P s hp, map_fault Q s hp])

theorem tick_sameControl : SameControl (tick P s) (tick Q s) := by
  obtain ⟨hl, -⟩ | ⟨hl, -⟩ | ⟨ha, hc⟩ | ⟨ha, hc, hp⟩ | ⟨ha, hc, hp⟩ := tick_cases P s
  · exact .of_eq (by simp only [tick, hl])
  · exact .of_eq (by simp only [tick, hl])
  · exact .of_eq (by rw [tick_cntFault P s ha hc, tick_cntFault Q s ha hc])
  · obtain ⟨v, hv⟩ := tick_pwmFault P s ha hc hp
    obtain ⟨w, hw⟩ := tick_pwmFault Q s ha hc hp
    rw [hv, hw]
    simp [SameControl, CycleValues.latches]
  · obtain ⟨v, hv⟩ := tick_complete P s ha hc hp
    obtain ⟨w, hw⟩ := tick_complete Q s ha hc hp
    rw [hv, hw]
    simp [SameControl, CycleValues.latches]

theorem executeCommand_sameControl (w : I32) (hw : w ≠ 1) :
    SameControl (executeCommand P w s) (executeCommand Q w s) := by
  by_cases hbig : 2 < w.toNat
  · exact .of_eq (by rw [executeCommand_illegal P w s hbig, executeCommand_illegal Q w s hbig])
  · obtain rfl | rfl : w = 0 ∨ w = 2 := by bv_omega
    · exact .of_eq rfl
    · exact tick_sameControl P Q s

/-- Only the write of an integer to `CMD` reaches an operation with parameters (R163). -/
theorem wr_params_eq (n : RegNum) (v : Payload N) (h : n ≠ 0 ∨ ∃ x, v = .num x) :
    wr P n v s = wr Q n v s := by
  unfold wr writeLive
  cases hn : Reg.ofNumber n with
  | none => rfl
  | some r =>
    obtain hne | ⟨x, rfl⟩ := h
    · have hr : r ≠ .cmd := by
        rintro rfl
        exact hne (Reg.number_of_ofNumber n _ hn).symm
      simp only [if_neg hr]
    · rfl

theorem wr_sameControl (n : RegNum) (v : Payload N) (h : isInitEvent (.wr n v) = false) :
    SameControl (wr P n v s) (wr Q n v s) := by
  cases v with
  | num x => exact .of_eq (wr_params_eq P Q s n _ (.inr ⟨x, rfl⟩))
  | int w =>
    by_cases hn : n = 0
    · subst hn
      have hw : w ≠ 1 := by simpa [isInitEvent] using h
      by_cases hf : s.lifecycle = .fault
      · exact .of_eq (by simp only [wr, if_pos hf])
      · simp only [wr, if_neg hf]
        exact executeCommand_sameControl P Q s w hw
    · exact .of_eq (wr_params_eq P Q s n _ (.inl hn))

theorem effect_sameControl (i : Instr N) (hi : isInitEvent i = false) :
    SameControl (effect P i s) (effect Q i s) := by
  cases i with
  | nop | rdrst | commit | rd _ => exact .of_eq rfl
  | est | tgt | pid => exact ⟨rfl, rfl, rfl, rfl, rfl, rfl, rfl, rfl, rfl, rfl⟩
  | map => exact map_sameControl P Q s
  | tick => exact tick_sameControl P Q s
  | wr n v => exact wr_sameControl P Q s n v hi
  | init => cases hi

end Sys2Proof.Machine
end

section
/-! PROOFS. The settled statements about the whole machine and its parameters. -/

namespace Sys2Proof.Proofs

open Sys2Proof.Machine

/-- Settles O10: outside a cycle every fetch has a meaning, and every operation a next state. -/
theorem noStepFaultsBetweenEvents : Obligations.NoStepFaultsBetweenEvents := by
  refine ⟨fun s f h hs => ?_, exec_total⟩
  rw [step_eq_stepWith] at hs
  have hm := midCycle_of_noMicroWord (noMicroWord_of_stepWith_fault hs)
  simp [h.midCycle_eq_false] at hm

/-- Settles O14: the micro-operations leave the flags, and no other outcome clears one. -/
theorem stickyFlagsAreNeverCleared : Obligations.StickyFlagsAreNeverCleared := by
  intro i s t e ht hs
  rw [exec_eq_effect] at ht
  cases ht
  exact effect_keeps_flag params i s e hs

/-- Settles O15: only a store changes MotorConfig, and a store needs a write in UNCONF. -/
theorem configurationIsFrozenAfterConstruction :
    Obligations.ConfigurationIsFrozenAfterConstruction := by
  simp only [Obligations.ConfigurationIsFrozenAfterConstruction, exec_eq_effect,
    Host.Outcome.next.injEq]
  refine ⟨?frozen, ?onlyWr, ?denied, ?dropped⟩
  case frozen => rintro i s _ hl rfl; exact effect_cfg params i s (.inl hl)
  case onlyWr => rintro i s _ hi rfl; exact effect_cfg params i s (.inr hi)
  case denied => exact fun r v s hr ha => wr_config_accepts params r v s hr ha
  case dropped => exact fun r v s hr hf => wr_config_fault params r v s hr hf

/-- Settles O44: the frame of each micro-operation, and the cells its rule does not list. -/
theorem microOperationsWriteOnlyTheirCells : Obligations.MicroOperationsWriteOnlyTheirCells := by
  intro i s t r hi ht
  rw [exec_eq_effect] at ht
  cases ht
  obtain ⟨hflags, hcfg, hdetail, harr, hout, hlive⟩ := effect_microFrame params i s hi
  refine ⟨hflags, hcfg, hdetail, harr, hout, hlive, fun hs hc hrdrst hest htgt hpid hmap hcommit => ?_⟩
  refine readCell_micro params i r s hi hs hc ?_
  cases i <;> simp_all [microWrites]

/-- Settles O56: outside INIT the parameters reach only numbers, the duties and the outputs. -/
theorem parametersChangeNumbersOnlyOutsideInit :
    Obligations.ParametersChangeNumbersOnlyOutsideInit :=
  fun _ P Q i s hi => effect_sameControl P Q s i hi

/-- Settles O54: the step and the operations of the block are those with its parameters. -/
theorem theMachineTakesItsParametersAsAnArgument :
    Obligations.TheMachineTakesItsParametersAsAnArgument :=
  ⟨step_eq_stepWith, exec_eq_effect, gainValid_zero⟩

end Sys2Proof.Proofs
end

section
/-! SUPPORT. The fields of the bit-field cells, whose words are sums of weighted fields
(10_state.md R24, R26, R33). -/

namespace Sys2Proof.Machine

variable {N : Type}

/-! ### The fields of a word given as a number -/

theorem getLsbD_ofNat_eq {n k : Nat} {b : Bool} (hk : k < 32) (h : n / 2 ^ k % 2 = b.toNat) :
    (BitVec.ofNat 32 n).getLsbD k = b := by
  rw [BitVec.getLsbD_ofNat, Nat.testBit_eq_decide_div_mod_eq, h]
  cases b <;> simp [hk]

theorem toNat_extractLsb'_ofNat {n start len : Nat} (hl : start + len ≤ 32) :
    ((BitVec.ofNat 32 n).extractLsb' start len).toNat = n / 2 ^ start % 2 ^ len := by
  have hsplit : 2 ^ 32 = 2 ^ start * 2 ^ (32 - start) := by
    rw [← pow_add, Nat.add_sub_cancel' (by omega)]
  have hdvd : 2 ^ len ∣ 2 ^ (32 - start) := pow_dvd_pow 2 (by omega)
  rw [BitVec.extractLsb'_toNat, BitVec.toNat_ofNat, Nat.shiftRight_eq_div_pow, hsplit,
    Nat.mod_mul_right_div_self, Nat.mod_mod_of_dvd _ hdvd]

theorem extractLsb'_ofNat_eq {n start len : Nat} {v : BitVec len} (hl : start + len ≤ 32)
    (h : n / 2 ^ start % 2 ^ len = v.toNat) :
    (BitVec.ofNat 32 n).extractLsb' start len = v :=
  BitVec.eq_of_toNat_eq ((toNat_extractLsb'_ofNat hl).trans h)

theorem extractLsb'_ofNat_eq_zero {n start len : Nat} (hl : start + len ≤ 32)
    (h : n / 2 ^ start % 2 ^ len = 0) : (BitVec.ofNat 32 n).extractLsb' start len = 0 :=
  extractLsb'_ofNat_eq hl (h.trans BitVec.toNat_zero.symm)

/-! ### The words -/

theorem Lifecycle.code_lt (l : Lifecycle) : l.code < 4 := by
  cases l <;> decide

/-- `STATUS` (10_state.md R24). -/
theorem statusWord_fields (s : State.Of N) :
    ((statusWord s).extractLsb' 0 2).toNat = s.lifecycle.code ∧
    (statusWord s).extractLsb' 2 2 = 0 ∧
    (statusWord s).getLsbD 4 = s.flags.cfgErr ∧ (statusWord s).getLsbD 5 = s.flags.wrErr ∧
    (statusWord s).getLsbD 6 = s.flags.cmdErr ∧ (statusWord s).getLsbD 7 = s.flags.addrErr ∧
    (statusWord s).extractLsb' 8 3 = s.phase ∧ (statusWord s).extractLsb' 11 21 = 0 := by
  have hstate := s.lifecycle.code_lt
  have hphase := s.phase.isLt
  have hcfg := s.flags.cfgErr.toNat_le
  have hwr := s.flags.wrErr.toNat_le
  have hcmd := s.flags.cmdErr.toNat_le
  have haddr := s.flags.addrErr.toNat_le
  unfold statusWord bitAt
  refine ⟨(toNat_extractLsb'_ofNat (by decide)).trans ?state, extractLsb'_ofNat_eq_zero (by decide) ?low,
    getLsbD_ofNat_eq (by decide) ?cfg, getLsbD_ofNat_eq (by decide) ?wr,
    getLsbD_ofNat_eq (by decide) ?cmd, getLsbD_ofNat_eq (by decide) ?addr,
    extractLsb'_ofNat_eq (by decide) ?phase, extractLsb'_ofNat_eq_zero (by decide) ?high⟩
  all_goals omega

/-- `CFGDETAIL` (10_state.md R26). -/
theorem cfgDetail_word_fields (d : CfgDetail) :
    d.word.getLsbD 0 = d.gearBad ∧ d.word.getLsbD 1 = d.resBad ∧ d.word.getLsbD 2 = d.periodBad ∧
    d.word.getLsbD 3 = d.kBad ∧ d.word.getLsbD 4 = d.pwmBad ∧ d.word.getLsbD 5 = d.iclampBad ∧
    d.word.getLsbD 6 = d.gainBad ∧ d.word.extractLsb' 7 25 = 0 := by
  have hgear := d.gearBad.toNat_le
  have hres := d.resBad.toNat_le
  have hperiod := d.periodBad.toNat_le
  have hk := d.kBad.toNat_le
  have hpwm := d.pwmBad.toNat_le
  have hclamp := d.iclampBad.toNat_le
  have hgain := d.gainBad.toNat_le
  unfold CfgDetail.word bitAt
  refine ⟨getLsbD_ofNat_eq (by decide) ?gear, getLsbD_ofNat_eq (by decide) ?res,
    getLsbD_ofNat_eq (by decide) ?period, getLsbD_ofNat_eq (by decide) ?k,
    getLsbD_ofNat_eq (by decide) ?pwm, getLsbD_ofNat_eq (by decide) ?clamp,
    getLsbD_ofNat_eq (by decide) ?gain, extractLsb'_ofNat_eq_zero (by decide) ?high⟩
  all_goals omega

/-- `CTRL` (10_state.md R33). -/
theorem ctrlWord_fields (c : MotorConfig N) :
    c.ctrlWord.getLsbD 0 = c.reverse ∧ c.ctrlWord.getLsbD 1 = c.enD ∧
    c.ctrlWord.getLsbD 2 = c.iclampEn ∧ c.ctrlWord.extractLsb' 3 29 = 0 := by
  have hreverse := c.reverse.toNat_le
  have henD := c.enD.toNat_le
  have hclamp := c.iclampEn.toNat_le
  unfold MotorConfig.ctrlWord bitAt
  refine ⟨getLsbD_ofNat_eq (by decide) ?reverse, getLsbD_ofNat_eq (by decide) ?enD,
    getLsbD_ofNat_eq (by decide) ?clamp, extractLsb'_ofNat_eq_zero (by decide) ?high⟩
  all_goals omega

end Sys2Proof.Machine

namespace Sys2Proof.Proofs

open Sys2Proof.Machine

/-- Settles O18: each word is the sum of its fields at their weights. -/
theorem bitFieldCellsReadAsLaidOut : Obligations.BitFieldCellsReadAsLaidOut := by
  refine ⟨fun s => ⟨_, rfl, ?_⟩, fun s => ?_, fun s => ⟨_, rfl, cfgDetail_word_fields s.cfgDetail⟩,
    fun s => ⟨_, rfl, ctrlWord_fields s.cfg⟩⟩
  · obtain ⟨hstate, hrest⟩ := statusWord_fields s
    refine ⟨hstate.trans ?_, hrest⟩
    cases s.lifecycle <;> rfl
  · change Payload.int (causeWord s.cause) = _
    obtain _ | e := s.cause
    · rfl
    · cases e <;> rfl

end Sys2Proof.Proofs
end

section
/-! SUPPORT. The register map, the fetch of an event from its channel, and the port accesses of a cycle
(10_state.md R21, 20_memory.md R64, R66, R72). -/

namespace Sys2Proof

/-! ### The register map -/

/-- The range of numbers of each bank (20_memory.md R64). -/
theorem Reg.bank_iff_number (r : Reg) :
    (r.bank = .system ↔ r.number.toNat ≤ 0x03) ∧
    (r.bank = .motorConfig ↔ 0x08 ≤ r.number.toNat ∧ r.number.toNat ≤ 0x13) ∧
    (r.bank = .controllerState ↔ 0x18 ≤ r.number.toNat ∧ r.number.toNat ≤ 0x1C) ∧
    (r.bank = .pwmCommand ↔ 0x20 ≤ r.number.toNat ∧ r.number.toNat ≤ 0x21) ∧
    (r.bank = .latches ↔ 0x28 ≤ r.number.toNat) := by
  cases r <;> decide

/-- The unassigned numbers (20_memory.md R64). -/
theorem Reg.ofNumber_eq_none_iff (n : RegNum) :
    Reg.ofNumber n = none ↔
      ((0x04 ≤ n.toNat ∧ n.toNat ≤ 0x07) ∨ (0x14 ≤ n.toNat ∧ n.toNat ≤ 0x17) ∨
        (0x1D ≤ n.toNat ∧ n.toNat ≤ 0x1F) ∨ (0x22 ≤ n.toNat ∧ n.toNat ≤ 0x27) ∨ 0x2E ≤ n.toNat) := by
  revert n
  decide

end Sys2Proof

namespace Sys2Proof.Machine

variable {N : Type}

/-! ### The fetch of an event -/

/-- A legal word with a legal sample starts its event (30_encoding.md R88, R89). -/
theorem fetchWire_of_ok {w : Wire N} {r : TickRecord N} {p : TickSample N} {i : Instr N}
    (hr : decodeSample r = .ok p) (hw : decode w = .ok i) (s : State.Of N) :
    fetchWire w r s = .run i (startEvent p s) := by
  simp only [fetchWire, hr, hw]

theorem fetchNext_of_bus {s s1 : State.Of N} {b : BusAccess N} (hm : s.midCycle = false)
    (he : takeEvent s = some (.bus b, s1)) :
    fetchNext s = fetchWire (.bus b.header b.payload) b.ports s1 := by
  simp [fetchNext, hm, he]

theorem fetchNext_of_tick {s s1 : State.Of N} {r : TickRecord N} (hm : s.midCycle = false)
    (he : takeEvent s = some (.tick r, s1)) : fetchNext s = fetchWire .tickPulse r s1 := by
  simp [fetchNext, hm, he]

theorem step_of_bus {s s1 : State} {b : BusAccess Num} {p : TickSample Num} {i : Instr}
    (hm : s.midCycle = false) (he : takeEvent s = some (.bus b, s1))
    (hp : decodeSample b.ports = .ok p) (hi : decode (.bus b.header b.payload) = .ok i) :
    step s = exec i (startEvent p s1) := by
  simp only [step, fetchNext_of_bus hm he, fetchWire_of_ok hp hi]

theorem step_of_tick {s s1 : State} {r : TickRecord Num} {p : TickSample Num}
    (hm : s.midCycle = false) (he : takeEvent s = some (.tick r, s1))
    (hp : decodeSample r = .ok p) : step s = exec .tick (startEvent p s1) := by
  have hi : decode .tickPulse = .ok (.tick : Instr) := rfl
  simp only [step, fetchNext_of_tick hm he, fetchWire_of_ok hp hi]

/-- Of a tick and a bus access that arrive together one is taken and the other is the next arrival
(20_memory.md R66, 60_exceptions.md R188). -/
theorem takeEvent_of_both {s : State.Of N} {b : BusAccess N} {r : TickRecord N}
    {rest : List (Arrival N)}
    (ha : s.arrivals = { reset := false, bus := some b, tick := some r } :: rest) :
    takeEvent s = some (.tick r, { s with
      arrivals := { reset := false, bus := some b, tick := none } :: rest
      freeCount := s.freeCount + 1 }) ∨
    takeEvent s = some (.bus b, { s with
      arrivals := { reset := false, bus := none, tick := some r } :: rest
      freeCount := s.freeCount + 1 }) := by
  cases hf : Config.tickFirst s.freeCount with
  | true => left; simp [takeEvent, ha, hf]
  | false => right; simp [takeEvent, ha, hf]

/-! ### The ports -/

/-- The port accesses a cycle adds, by the point where it is cut (20_memory.md R72). -/
theorem tick_portLog (P : Params N) (s : State.Of N) (ha : s.accepts = true) :
    (s.ports.cntFail = true → (tick P s).portLog = s.portLog) ∧
    (s.ports.cntFail = false → s.ports.pwmFail = true →
      (tick P s).portLog =
        s.portLog ++ [.cntRead s.ports.cnt, .cntClear, .targetSample s.ports.tgt]) ∧
    (s.ports.cntFail = false → s.ports.pwmFail = false →
      (tick P s).portLog =
        s.portLog ++ [.cntRead s.ports.cnt, .cntClear, .targetSample s.ports.tgt,
          .pwmWrite (tick P s).duty.a (tick P s).duty.b]) := by
  refine ⟨fun hc => ?cntFault, fun hc hp => ?pwmFault, fun hc hp => ?complete⟩
  case cntFault => rw [tick_cntFault P s ha hc]
  case pwmFault =>
    obtain ⟨v, ht⟩ := tick_pwmFault P s ha hc hp
    rw [ht]
  case complete =>
    obtain ⟨v, ht⟩ := tick_complete P s ha hc hp
    rw [ht]

end Sys2Proof.Machine
end

section
/-! PROOFS. The settled statements about the register map, the order of events and the ports. -/

namespace Sys2Proof.Proofs

open Sys2Proof.Machine

/-- Settles O12: whichever of the two is taken first decodes and starts, and the other stays. -/
theorem simultaneousEventsInEitherOrder : Obligations.SimultaneousEventsInEitherOrder := by
  intro s b r rest pb pr i hm ha hpb hpr hi
  obtain he | he := takeEvent_of_both ha
  · exact .inl ⟨_, step_of_tick hm he hpr⟩
  · exact .inr ⟨_, step_of_bus hm he hpb hi⟩

/-- Settles O50: an event starts with no port access, and the cycle adds those of its point of exit. -/
theorem portsAreTouchedInTheFixedOrder : Obligations.PortsAreTouchedInTheFixedOrder := by
  intro p s t ha ht
  rw [exec_eq_effect] at ht
  cases ht
  exact tick_portLog params (startEvent p s) ha

/-- Settles O5: the rows are read off the model's tables, which `number` and `ofNumber` invert. -/
theorem registerMapIsTheTable : Obligations.RegisterMapIsTheTable := by
  refine ⟨?rows, Reg.bank_iff_number, Reg.ofNumber_number, Reg.ofNumber_eq_none_iff,
    Reg.number_of_ofNumber⟩
  case rows => decide

end Sys2Proof.Proofs
end

section
/-! SUPPORT. The decoder and the encoder as inverses: a wire value decodes to an operation exactly when it
is the word of that operation on its channel (30_encoding.md R81 to R89). -/

namespace Sys2Proof

variable {N : Type}

/-- The bits from `k` up are zero exactly in the numbers below `2 ^ k`. -/
theorem extractLsb'_eq_zero_iff {m k n : Nat} (hm : m = k + n) (w : BitVec m) :
    w.extractLsb' k n = 0 ↔ w.toNat < 2 ^ k := by
  have hw : w.toNat / 2 ^ k < 2 ^ n := by
    rw [Nat.div_lt_iff_lt_mul (by positivity), ← pow_add, Nat.add_comm, ← hm]
    exact w.isLt
  rw [← BitVec.toNat_inj, BitVec.extractLsb'_toNat, Nat.shiftRight_eq_div_pow, Nat.mod_eq_of_lt hw]
  simp

/-! ### Format C -/

/-- The opcode map and the table of command words are one table (30_encoding.md R85). -/
theorem opcodeInstr_eq_some_iff (op : Nat) (i : Instr N) :
    opcodeInstr op = some i ↔ ∃ v, i.commandWord = some v ∧ v.toNat = op := by
  constructor
  · intro h
    unfold opcodeInstr at h
    split at h <;> cases h <;> exact ⟨_, rfl, rfl⟩
  · rintro ⟨v, hv, rfl⟩
    cases i <;> cases hv <;> rfl

theorem commandWord_lt {i : Instr N} {v : Byte} (h : i.commandWord = some v) : v.toNat < 16 := by
  cases i <;> cases h <;> decide

theorem setWidth_eq_iff_toNat (v : Byte) (w : I32) : v.setWidth 32 = w ↔ v.toNat = w.toNat := by
  have hv := v.isLt
  rw [← BitVec.toNat_inj, BitVec.toNat_setWidth, Nat.mod_eq_of_lt (by omega)]

/-- Bits 31:4 are zero exactly in the words below 16. -/
theorem highBits_eq_zero_iff (w : I32) : w.extractLsb' 4 28 = 0 ↔ w.toNat < 16 :=
  extractLsb'_eq_zero_iff (k := 4) (n := 28) rfl w

theorem decodeWord_of_high {w : I32} (h : ¬ w.toNat < 16) :
    decodeWord w = (.error .highBits : Except DecodeError (Instr N)) :=
  if_pos (mt (highBits_eq_zero_iff w).mp h)

theorem decodeWord_of_low {w : I32} (h : w.toNat < 16) (i : Instr N) :
    decodeWord w = .ok i ↔ opcodeInstr w.toNat = some i := by
  have hop : (w.extractLsb' 0 4).toNat = w.toNat := by
    simp [BitVec.extractLsb'_toNat, Nat.mod_eq_of_lt h]
  unfold decodeWord
  rw [if_neg (not_not.mpr ((highBits_eq_zero_iff w).mpr h)), hop]
  cases (opcodeInstr w.toNat : Option (Instr N)) <;> simp

/-- A word has a meaning exactly when it is the command word of that operation (30_encoding.md R81, R86). -/
theorem decodeWord_eq_ok_iff (w : I32) (i : Instr N) :
    decodeWord w = .ok i ↔ ∃ v, i.commandWord = some v ∧ v.setWidth 32 = w := by
  simp only [setWidth_eq_iff_toNat, ← opcodeInstr_eq_some_iff]
  by_cases hw : w.toNat < 16
  · exact decodeWord_of_low hw i
  · rw [decodeWord_of_high hw]
    refine ⟨nofun, fun hop => absurd ?_ hw⟩
    obtain ⟨v, hv, hvw⟩ := (opcodeInstr_eq_some_iff _ i).mp hop
    exact hvw ▸ commandWord_lt hv

/-- A word is a host command exactly when it has the meaning of one (30_encoding.md R86). -/
theorem decodeCmd_eq_ok_iff (w : I32) (i : Instr N) :
    decodeCmd w = .ok i ↔ i.isMicro = false ∧ decodeWord w = .ok i := by
  unfold decodeCmd
  cases decodeWord w with
  | error e => simp
  | ok j => cases hj : j.isMicro <;> grind

/-- An entry is a micro-operation exactly when it has the meaning of one (30_encoding.md R87). -/
theorem decodeMicro_eq_ok_iff (w : Byte) (i : Instr N) :
    decodeMicro w = .ok i ↔ i.isMicro = true ∧ decodeWord (w.setWidth 32) = .ok i := by
  unfold decodeMicro
  cases decodeWord (w.setWidth 32) with
  | error e => simp
  | ok j => cases hj : j.isMicro <;> grind

theorem encode_cmd_eq_some_iff (i : Instr N) (w : I32) :
    encode .cmd i = some (.cmd w) ↔
      i.isMicro = false ∧ ∃ v, i.commandWord = some v ∧ v.setWidth 32 = w := by
  cases hi : i.isMicro <;> simp [encode, hi]

theorem encode_microProgram_eq_some_iff (i : Instr N) (w : Byte) :
    encode .microProgram i = some (.micro w) ↔ i.isMicro = true ∧ i.commandWord = some w := by
  cases hi : i.isMicro <;> simp [encode, hi]

/-! ### Format B -/

/-- The three fields of a bus header (30_encoding.md R82). -/
theorem busHeader_eq_iff (we : Bool) (addr : RegNum) (h : Byte) :
    busHeader we addr = h ↔
      h.getLsbD 6 = false ∧ h.getLsbD 7 = we ∧ h.extractLsb' 0 6 = addr := by
  constructor
  · rintro rfl
    refine ⟨?_, ?_, ?_⟩ <;> cases we <;> revert addr <;> decide
  · rintro ⟨h6, rfl, rfl⟩
    revert h
    decide

theorem decodeBus_read (addr : RegNum) :
    decodeBus (busHeader false addr) none = .ok (.rd addr : Instr N) := by
  obtain ⟨h6, h7, haddr⟩ := (busHeader_eq_iff false addr _).mp rfl
  simp only [decodeBus, h6, h7, haddr, Bool.false_eq_true, if_false]

theorem decodeBus_write (addr : RegNum) (v : Payload N) :
    decodeBus (busHeader true addr) (some v) = .ok (.wr addr v) := by
  obtain ⟨h6, h7, haddr⟩ := (busHeader_eq_iff true addr _).mp rfl
  simp only [decodeBus, h6, h7, haddr, Bool.false_eq_true, if_false]

/-- A bus transaction has a meaning exactly when it is that of the operation (30_encoding.md R82, R89). -/
theorem decodeBus_eq_ok_iff (h : Byte) (p : Option (Payload N)) (i : Instr N) :
    decodeBus h p = .ok i ↔ encode .bus i = some (.bus h p) := by
  constructor
  · intro hd
    unfold decodeBus at hd
    split at hd
    · cases hd
    next h6 =>
      have hheader := (busHeader_eq_iff _ _ h).mpr ⟨Bool.eq_false_iff.mpr h6, rfl, rfl⟩
      split at hd
      next h7 => cases hd; rw [h7] at hheader; simp only [encode, hheader]
      next => cases hd
      next h7 => cases hd; rw [h7] at hheader; simp only [encode, hheader]
      next => cases hd
  · intro he
    cases i with
    | rd addr => cases he; exact decodeBus_read addr
    | wr addr v => cases he; exact decodeBus_write addr v
    | nop | init | tick | rdrst | est | tgt | pid | map | commit => cases he

/-! ### Format T -/

/-- The flag byte of a sample, by its fields (30_encoding.md R88). -/
theorem sampleFlags_eq_iff (cntFail pwmFail : Bool) (flags : Byte) :
    (0#6 ++ BitVec.ofBool pwmFail) ++ BitVec.ofBool cntFail = flags ↔
      flags.extractLsb' 2 6 = 0 ∧ flags.getLsbD 0 = cntFail ∧ flags.getLsbD 1 = pwmFail := by
  constructor
  · rintro rfl
    cases cntFail <;> cases pwmFail <;> decide
  · rintro ⟨hz, rfl, rfl⟩
    revert flags
    decide

theorem decodeSample_of_high {r : TickRecord N} (h : r.flags.extractLsb' 2 6 ≠ 0) :
    decodeSample r = .error .sampleFlags := if_pos h

theorem decodeSample_of_low {r : TickRecord N} (h : r.flags.extractLsb' 2 6 = 0) :
    decodeSample r = .ok
      { cnt := r.cnt, cntFail := r.flags.getLsbD 0, tgt := r.tgt, pwmFail := r.flags.getLsbD 1 } :=
  if_neg (not_not.mpr h)

/-- A record carries a sample exactly when bits 7:2 of its flag byte are zero (30_encoding.md R88). -/
theorem exists_decodeSample_iff (r : TickRecord N) :
    (∃ p, decodeSample r = .ok p) ↔ r.flags.toNat < 4 := by
  have hlow : r.flags.extractLsb' 2 6 = 0 ↔ r.flags.toNat < 4 :=
    extractLsb'_eq_zero_iff (k := 2) (n := 6) rfl r.flags
  rw [← hlow]
  constructor
  · rintro ⟨p, hp⟩
    by_contra hz
    simp [decodeSample_of_high hz] at hp
  · exact fun hz => ⟨_, decodeSample_of_low hz⟩

/-- A record carries a sample exactly when it is the record of that sample (30_encoding.md R88). -/
theorem decodeSample_eq_ok_iff (r : TickRecord N) (p : TickSample N) :
    decodeSample r = .ok p ↔ encodeSample p = r := by
  constructor
  · intro h
    by_cases hz : r.flags.extractLsb' 2 6 = 0
    · rw [decodeSample_of_low hz] at h
      cases h
      have hflags := (sampleFlags_eq_iff _ _ r.flags).mpr ⟨hz, rfl, rfl⟩
      simp only [encodeSample, hflags]
    · simp [decodeSample_of_high hz] at h
  · rintro rfl
    obtain ⟨hz, hcnt, hpwm⟩ := (sampleFlags_eq_iff p.cntFail p.pwmFail _).mp rfl
    exact (decodeSample_of_low hz).trans (by simp only [encodeSample, hcnt, hpwm])

/-! ### Every channel -/

theorem encode_isSome (c : Channel) (i : Instr N) : (encode c i).isSome = wellFormed c i := by
  cases c <;> cases i <;> rfl

theorem channel_of_encode {c : Channel} {i : Instr N} {w : Wire N} (h : encode c i = some w) :
    w.channel = c := by
  cases c <;> cases i <;> cases h <;> rfl

/-- A wire value decodes to an operation exactly when the encoder puts that operation on its channel as
this value (30_encoding.md R89). -/
theorem decode_eq_ok_iff (w : Wire N) (i : Instr N) :
    decode w = .ok i ↔ encode w.channel i = some w := by
  cases w with
  | cmd w =>
    calc decode (.cmd w) = .ok i
      _ ↔ i.isMicro = false ∧ decodeWord w = .ok i := decodeCmd_eq_ok_iff w i
      _ ↔ encode .cmd i = some (.cmd w) := by rw [decodeWord_eq_ok_iff, encode_cmd_eq_some_iff]
  | micro w =>
    have hbyte (v : Byte) : v.setWidth 32 = w.setWidth 32 ↔ v = w := by
      rw [setWidth_eq_iff_toNat, BitVec.toNat_setWidth_of_le (by decide), BitVec.toNat_inj]
    calc decode (.micro w) = .ok i
      _ ↔ i.isMicro = true ∧ decodeWord (w.setWidth 32) = .ok i := decodeMicro_eq_ok_iff w i
      _ ↔ i.isMicro = true ∧ i.commandWord = some w := by simp [decodeWord_eq_ok_iff, hbyte]
      _ ↔ encode .microProgram i = some (.micro w) := (encode_microProgram_eq_some_iff i w).symm
  | bus h p => exact decodeBus_eq_ok_iff h p i
  | tickPulse => cases i <;> simp [decode, encode, Wire.channel]

end Sys2Proof
end

section
/-! SUPPORT. The host's writes to `CMD`, what FAULT leaves of every operation, and the step on the next
arrival or the micro-program (30_encoding.md R86, R89, 45_loop_driver.md R145, 60_exceptions.md R193). -/

namespace Sys2Proof.Machine

variable {N : Type}

/-! ### Commands -/

/-- Outside FAULT an integer written to `CMD` is a command (46_host_access_and_construction.md R163). -/
theorem wr_cmd_live (P : Params N) (w : I32) (s : State.Of N) (live : s.lifecycle ≠ .fault) :
    wr P Reg.cmd.number (.int w) s = executeCommand P w s := by
  simp [wr, writeLive, live]

theorem init_of_accepts (P : Params N) (s : State.Of N) (ha : s.accepts = true) :
    init P s = raise .illCmd s := by
  obtain hl | hl := (accepts_iff s).mp ha <;> simp [init, hl]

theorem tick_of_unconf (P : Params N) (s : State.Of N) (hl : s.lifecycle = .unconf) :
    tick P s = { raise .illCmd s with out := .tick (.refused .illCmd) } := by
  simp [tick, hl]

/-- In FAULT no operation outside the micro-program changes a cell (60_exceptions.md R193). -/
theorem HostOutcome.sameCells_of_fault {P : Params N} {s t : State.Of N} (h : HostOutcome P s t)
    (hf : s.lifecycle = .fault) : t.sameCells s := by
  cases h with
  | unchanged cells => exact cells
  | recorded _ _ live => exact absurd hf live
  | constructed unconf => simp [hf] at unconf
  | completed ha | pwmFaulted ha | cntFaulted ha => exact absurd hf (ne_fault_of_accepts ha)

theorem wr_sameCells_of_fault (P : Params N) (n : RegNum) (v : Payload N) (s : State.Of N)
    (hf : s.lifecycle = .fault) : (wr P n v s).sameCells s := by
  obtain h | ⟨unconf, -⟩ := wr_outcome P s n v
  · exact h.sameCells_of_fault hf
  · simp [hf] at unconf

/-! ### The step -/

theorem takeEvent_of_bus {s : State.Of N} {b : BusAccess N} {rest : List (Arrival N)}
    (ha : s.arrivals = { reset := false, bus := some b, tick := none } :: rest) :
    takeEvent s = some (.bus b, { s with arrivals := rest }) := by
  simp [takeEvent, ha]

theorem takeEvent_of_tick {s : State.Of N} {r : TickRecord N} {rest : List (Arrival N)}
    (ha : s.arrivals = { reset := false, bus := none, tick := some r } :: rest) :
    takeEvent s = some (.tick r, { s with arrivals := rest }) := by
  simp [takeEvent, ha]

theorem midCycle_of_microProgram {s : State.Of N} {w : Byte} (hl : s.lifecycle = .running)
    (hw : microProgram s.phase = some w) : s.midCycle = true := by
  have hphase : s.phase ≠ 0 := by
    intro h0
    rw [h0] at hw
    cases hw
  simpa [State.Of.midCycle, hl] using hphase

/-- Inside a cycle the micro-program gives the next operation (45_loop_driver.md R145). -/
theorem fetchNext_of_micro {s : State.Of N} {w : Byte} {i : Instr N} (hl : s.lifecycle = .running)
    (hr : s.resetPending = false) (hw : microProgram s.phase = some w)
    (hi : decode (.micro w) = .ok i) : fetchNext s = .run i s := by
  have hfetch : fetchMicro s.phase = some i := by simp [fetchMicro, hw, hi, Except.toOption]
  simp [fetchNext, midCycle_of_microProgram hl hw, hr, hfetch]

end Sys2Proof.Machine
end

section
/-! PROOFS. The settled statements about the encoding, the illegal commands and the step. -/

namespace Sys2Proof.Proofs

open Sys2Proof.Machine

/-- Settles O2: a legal operation has a word, and the decoder inverts the encoder. -/
theorem decodeOfEncodeIsTheInstruction : Obligations.DecodeOfEncodeIsTheInstruction := by
  intro c i hc
  obtain ⟨w, hw⟩ := Option.isSome_iff_exists.mp ((encode_isSome c i).trans hc)
  obtain rfl := channel_of_encode hw
  exact ⟨w, hw, rfl, (decode_eq_ok_iff w i).mpr hw⟩

/-- Settles O3: the encoder inverts the decoder, and what it encodes is legal. -/
theorem decodedWordsEncodeBack : Obligations.DecodedWordsEncodeBack := by
  intro w i hd
  have hw := (decode_eq_ok_iff w i).mp hd
  exact ⟨by rw [← encode_isSome, hw]; rfl, hw⟩

/-- Settles O4: the record of a sample is the only one that decodes to it. -/
theorem tickRecordRoundTrip : Obligations.TickRecordRoundTrip :=
  ⟨fun p => (decodeSample_eq_ok_iff _ p).mpr rfl, fun r p => (decodeSample_eq_ok_iff r p).mp,
    exists_decodeSample_iff⟩

/-- Settles O22: outside FAULT the word is a command, which raises IllCmd; in FAULT it is dropped. -/
theorem illegalCommandsRaiseIllCmd : Obligations.IllegalCommandsRaiseIllCmd := by
  simp only [Obligations.IllegalCommandsRaiseIllCmd, exec_eq_effect, Host.Outcome.next.injEq]
  refine ⟨?noCommand, ?initAgain, ?tickUnconf, ?dropped⟩
  case noCommand =>
    intro w s live hw
    exact (wr_cmd_live params w s live).trans (executeCommand_illegal params w s hw)
  case initAgain =>
    intro s ha
    exact (wr_cmd_live params 1 s (ne_fault_of_accepts ha)).trans (init_of_accepts params s ha)
  case tickUnconf =>
    intro s hl
    exact (wr_cmd_live params 2 s (by simp [hl])).trans (tick_of_unconf params s hl)
  case dropped =>
    rintro v s _ hf rfl
    exact wr_sameCells_of_fault params Reg.cmd.number v s hf

/-- Settles O1: the written-out words are those of the tables. -/
theorem writtenOutWordsDecode : Obligations.WrittenOutWordsDecode :=
  ⟨rfl, rfl, rfl, rfl, rfl, rfl, rfl, rfl, rfl⟩

/-- Settles O11: each of the three sources decodes to an operation and starts it. -/
theorem aStepRunsTheDecodedInstruction : Obligations.AStepRunsTheDecodedInstruction := by
  refine ⟨?bus, ?tick, ?micro⟩
  case bus => exact fun s b rest p i hm ha hp hi => step_of_bus hm (takeEvent_of_bus ha) hp hi
  case tick => exact fun s r rest p hm ha hp => step_of_tick hm (takeEvent_of_tick ha) hp
  case micro =>
    intro s w i hl hr hw hi
    simp only [step, fetchNext_of_micro hl hr hw hi]

end Sys2Proof.Proofs
end

section
/-! PROOFS. The settled statements about the pulse counter (41_pulse_counter.md). -/

namespace Sys2Proof.Proofs

open Sys2Proof.Machine

/-- Settles O29: RDRST stands in the micro-program only, and the failure input chooses between its two
updates (R101, R104). -/
theorem rdrstReadsAndClearsTheCount : Obligations.RdrstReadsAndClearsTheCount := by
  simp only [Obligations.RdrstReadsAndClearsTheCount, exec_eq_effect, Host.Outcome.next.injEq]
  refine ⟨?entry, ?ok, ?fault⟩
  case entry => exact ⟨rfl, rfl, rfl⟩
  case ok => exact rdrst_ok
  case fault => exact rdrst_fault

/-- Settles O30: sign extension keeps the value, and 16 bits hold no other (R102). -/
theorem deltaKeepsTheSignedValueOfTheCount : Obligations.DeltaKeepsTheSignedValueOfTheCount := by
  intro s t hc ht
  have hd : t.lat.delta = s.ports.cnt.signExtend 32 := by
    rw [exec_eq_effect] at ht
    cases ht
    exact congrArg (·.lat.delta) (rdrst_ok s hc)
  rw [hd]
  exact ⟨signExtend_count s.ports.cnt, signExtend_count_range s.ports.cnt⟩

end Sys2Proof.Proofs
end

section
/-! SUPPORT. The speed formula and the filter over the rationals, and rows of whole cycles
(42_velocity_estimator.md R111 to R115, 45_loop_driver.md R149). -/

namespace Sys2Proof

theorem TickSample.clean_iff {N : Type} (p : TickSample N) :
    p.clean = true ↔ p.cntFail = false ∧ p.pwmFail = false := by
  simp [TickSample.clean]

end Sys2Proof

namespace Sys2Proof.Machine

/-! ### The raw speed -/

/-- What construction has checked of the speed formula's divisors
(46_host_access_and_construction.md R170). -/
theorem speedDivisors_of_valid {c : MotorConfig Num} (h : (validityMask params c).any = false) :
    0 < c.gear ∧ 0 < c.encRes ∧ 0 < c.sampleMs.toInt := by
  simp only [CfgDetail.any, validityMask, Bool.or_eq_false_iff, Bool.not_eq_false', params_lt,
    params_ofInt, Int.cast_zero, decide_eq_true_eq] at h
  obtain ⟨⟨⟨⟨⟨⟨gear, encRes⟩, sampleMs⟩, -⟩, -⟩, -⟩, -⟩ := h
  exact ⟨gear, encRes, sampleMs⟩

section RawSpeed

variable {c : MotorConfig Num} (gear : 0 < c.gear) (encRes : 0 < c.encRes)
  (sampleMs : 0 < c.sampleMs.toInt)

include gear encRes sampleMs

/-- The two quotients of the formula as one (R111). -/
theorem rawSpeed_linear (delta : I32) :
    rawSpeed params c delta =
      (delta.toInt : Rat) * 60000 / (c.gear * c.encRes * (c.sampleMs.toInt : Rat)) := by
  rw [rawSpeed_eq c delta (mul_pos gear encRes).ne' sampleMs.ne', div_mul_div_comm]

theorem rawSpeed_neg {delta : I32} (hd : delta.toInt < 0) : rawSpeed params c delta < 0 := by
  have ms : (0 : Rat) < (c.sampleMs.toInt : Rat) := by exact_mod_cast sampleMs
  have count : (delta.toInt : Rat) * 60000 < 0 :=
    mul_neg_of_neg_of_pos (by exact_mod_cast hd) (by norm_num)
  rw [rawSpeed_linear gear encRes sampleMs]
  exact div_neg_of_neg_of_pos count (mul_pos (mul_pos gear encRes) ms)

theorem rawSpeed_zero : rawSpeed params c 0 = 0 := by
  simp [rawSpeed_linear gear encRes sampleMs]

end RawSpeed

/-! ### The filter -/

/-- A convex combination lies between its two values (R115). -/
theorem filtered_between {k : Num} (h0 : 0 ≤ k) (h1 : k ≤ 1) (prev raw : Num) :
    min prev raw ≤ filtered params k prev raw ∧ filtered params k prev raw ≤ max prev raw := by
  have pass : 0 ≤ 1 - k := sub_nonneg.mpr h1
  have total : k + (1 - k) = 1 := add_sub_cancel k 1
  rw [filtered_eq]
  exact ⟨Convex.min_le_combo prev raw h0 pass total, Convex.combo_le_max prev raw h0 pass total⟩

theorem filtered_zero (k prev : Num) : filtered params k prev 0 = k * prev := by
  rw [filtered_eq, mul_zero, add_zero]

/-! ### One clean cycle -/

/-- A cycle without a fault ends in RUNNING, where the next tick is accepted (45_loop_driver.md R149). -/
theorem tick_accepts_of_clean {N : Type} (P : Params N) {s : State.Of N} (ha : s.accepts = true)
    (hp : s.ports.clean = true) : (tick P s).accepts = true := by
  obtain ⟨cnt, pwm⟩ := (s.ports.clean_iff).mp hp
  obtain ⟨v, ht⟩ := tick_complete P s ha cnt pwm
  rw [ht]
  rfl

/-- A cycle of zero count leaves `KLPF` times the filter memory (R113). -/
theorem tick_vel_of_zero_count {s : State} (ha : s.accepts = true)
    (valid : (validityMask params s.cfg).any = false) (hp : s.ports.clean = true)
    (h0 : s.ports.cnt = 0) : (tick params s).ctl.vel = s.cfg.klpf * s.ctl.velPrev := by
  obtain ⟨cnt, pwm⟩ := (s.ports.clean_iff).mp hp
  obtain ⟨gear, encRes, sampleMs⟩ := speedDivisors_of_valid valid
  obtain ⟨v, ht⟩ := tick_complete params s ha cnt pwm
  have raw : v.raw = 0 := by
    rw [v.raw_eq, h0]
    exact rawSpeed_zero gear encRes sampleMs
  calc (tick params s).ctl.vel
    _ = v.vel := by rw [ht]
    _ = s.cfg.klpf * s.ctl.velPrev := by rw [v.vel_eq, raw, filtered_zero]

theorem tick_cfg {N : Type} (P : Params N) (s : State.Of N) : (tick P s).cfg = s.cfg :=
  (tick_outcome P s).cfg_eq

/-! ### Rows of cycles -/

/-- The state a tick leaves that comes with the sample the ports then present. -/
def afterTick (p : TickSample Num) (s : State) : State := tick params (startEvent p s)

theorem cycles_cons (p : TickSample Num) (ps : List (TickSample Num)) (s : State) :
    cycles (p :: ps) s = afterTick p s :: cycles ps (afterTick p s) := rfl

theorem length_cycles (ps : List (TickSample Num)) (s : State) :
    (cycles ps s).length = ps.length := by
  induction ps generalizing s with
  | nil => rfl
  | cons p ps ih => rw [cycles_cons, List.length_cons, List.length_cons, ih]

@[simp] theorem afterCycles_nil (s : State) : afterCycles [] s = s := rfl

@[simp] theorem afterCycles_cons (p : TickSample Num) (ps : List (TickSample Num)) (s : State) :
    afterCycles (p :: ps) s = afterCycles ps (afterTick p s) := by
  simp only [afterCycles, cycles_cons, List.getLastD_cons]

theorem ControlInv.after_tick {s : State} (h : ControlInv params s) (p : TickSample Num) :
    ControlInv params (afterTick p s) :=
  (h.of_sameCells (t := startEvent p s) (by simp [State.Of.sameCells])).after_effect .tick rfl

/-- Each cycle of zero count multiplies the committed estimate by `KLPF` once more (R113). -/
theorem afterCycles_vel_of_zero_counts (ps : List (TickSample Num)) {s : State}
    (h : ControlInv params s) (ha : s.accepts = true)
    (hps : ∀ p ∈ ps, p.clean = true ∧ p.cnt = 0) :
    (afterCycles ps s).ctl.vel = s.cfg.klpf ^ ps.length * s.ctl.vel := by
  induction ps generalizing s with
  | nil => simp
  | cons p ps ih =>
    obtain ⟨⟨clean, zero⟩, rest⟩ := List.forall_mem_cons.mp hps
    have accepts : (afterTick p s).accepts = true := tick_accepts_of_clean params ha clean
    have cfg : (afterTick p s).cfg = s.cfg := tick_cfg params _
    have vel : (afterTick p s).ctl.vel = s.cfg.klpf * s.ctl.velPrev :=
      tick_vel_of_zero_count ha (h.configured (ne_unconf_of_accepts ha)) clean zero
    obtain ⟨committed, -, -⟩ := h.committed (ne_fault_of_accepts ha)
    calc (afterCycles (p :: ps) s).ctl.vel
      _ = (afterCycles ps (afterTick p s)).ctl.vel := by rw [afterCycles_cons]
      _ = s.cfg.klpf ^ ps.length * (afterTick p s).ctl.vel := by
        rw [ih (h.after_tick p) accepts rest, cfg]
      _ = s.cfg.klpf ^ (p :: ps).length * s.ctl.vel := by
        rw [vel, committed, List.length_cons, pow_succ, mul_assoc]

end Sys2Proof.Machine
end

section
/-! PROOFS. The settled statements about the velocity estimator (42_velocity_estimator.md). -/

namespace Sys2Proof.Proofs

open Sys2Proof.Machine

/-- Settles O31: EST stands in the micro-program only and is one update, with the speed formula and the
filter as its two values (R110). -/
theorem estComputesRawAndFilteredSpeed : Obligations.EstComputesRawAndFilteredSpeed := by
  refine ⟨⟨rfl, rfl, rfl⟩, fun s =>
    ⟨(est params s).lat.raw, (est params s).ctl.vel, ?next, ?vel, ?raw⟩⟩
  case next => rw [exec_eq_effect, effect, est_eq]
  case vel => rw [est_vel, filtered_eq]
  case raw =>
    intro den ms
    rw [est_raw, rawSpeed_eq _ _ den ms]

/-- Settles O32: the two quotients of the formula are one, whose divisor is positive (R111, R114). -/
theorem rawSpeedIsLinearInTheDelta : Obligations.RawSpeedIsLinearInTheDelta := by
  simp only [Obligations.RawSpeedIsLinearInTheDelta, exec_eq_effect, Host.Outcome.next.injEq]
  rintro s _ gear encRes sampleMs rfl
  exact ⟨rawSpeed_linear gear encRes sampleMs _, rawSpeed_neg gear encRes sampleMs⟩

/-- Settles O33: `VEL` is the convex combination of `VEL_PREV`, which EST leaves (R116), and `RAW` (R115). -/
theorem filterIsAConvexCombination : Obligations.FilterIsAConvexCombination := by
  simp only [Obligations.FilterIsAConvexCombination, exec_eq_effect, Host.Outcome.next.injEq]
  rintro s _ h0 h1 rfl
  exact filtered_between h0 h1 s.ctl.velPrev (est params s).lat.raw

/-- Settles O34: a zero delta gives a zero raw speed, and by induction over the cycles, each of which
commits its estimate, the factor is a power of `KLPF` (R113). -/
theorem zeroDeltaDecaysTheEstimate : Obligations.ZeroDeltaDecaysTheEstimate := by
  simp only [Obligations.ZeroDeltaDecaysTheEstimate, exec_eq_effect, Host.Outcome.next.injEq]
  refine ⟨?oneEst, ?manyCycles⟩
  case oneEst =>
    rintro s _ gear encRes sampleMs delta rfl
    have raw : (est params s).lat.raw = 0 := by
      rw [est_raw, delta]
      exact rawSpeed_zero gear encRes sampleMs
    exact ⟨raw, by rw [effect, est_vel, raw, filtered_zero]⟩
  case manyCycles =>
    intro ps s h ha hps
    exact ⟨length_cycles ps s, afterCycles_vel_of_zero_counts ps h.toControlInv ha hps⟩

end Sys2Proof.Proofs
end

section
/-! SUPPORT. The integral and what a cycle stores of it, and the reversal flag as a map of states
with which every operation of a cycle commutes (43_target_and_pid.md R121 to R129). -/

namespace Sys2Proof.Machine

variable {N : Type}

/-! ### The integral -/

/-- The clamped sum stays in its range (R125). -/
theorem integral_mem {c : MotorConfig Num} (on : c.iclampEn = true) (ordered : c.iclampLo ≤ c.iclampHi)
    (iPrev p : Num) :
    c.iclampLo ≤ integral params c iPrev p ∧ integral params c iPrev p ≤ c.iclampHi := by
  rw [integral_written, if_pos on]
  exact clampN_mem _ _ _ ordered

/-- With the clamp off PID reads neither range cell (R125). -/
theorem pid_clampRange_unread (P : Params N) (s : State.Of N) (lo hi : N)
    (off : s.cfg.iclampEn = false) :
    pid P { s with cfg := { s.cfg with iclampLo := lo, iclampHi := hi } } =
      { pid P s with cfg := { s.cfg with iclampLo := lo, iclampHi := hi } } := by
  have unread (p : N) :
      integral P { s.cfg with iclampLo := lo, iclampHi := hi } s.ctl.iPrev p =
        integral P s.cfg s.ctl.iPrev p := by
    simp [integral_written, off]
  rw [pid_eq, pid_eq, unread]
  rfl

/-! ### The integral memory over clean cycles -/

/-- A cycle that ends in RUNNING had no fault reported (45_loop_driver.md R149). -/
theorem clean_of_tick_running (P : Params N) {s : State.Of N} (ha : s.accepts = true)
    (running : (tick P s).lifecycle = .running) : s.ports.clean = true := by
  cases hc : s.ports.cntFail with
  | true => simp [tick_cntFault P s ha hc] at running
  | false =>
    cases hp : s.ports.pwmFail with
    | true =>
      obtain ⟨v, ht⟩ := tick_pwmFault P s ha hc hp
      simp [ht] at running
    | false => exact (s.ports.clean_iff).mpr ⟨hc, hp⟩

/-- A clean cycle commits the integral it latched (R128). -/
theorem tick_iPrev_of_clean (P : Params N) {s : State.Of N} (ha : s.accepts = true)
    (hp : s.ports.clean = true) :
    (tick P s).ctl.iPrev = integral P s.cfg s.ctl.iPrev (tick P s).lat.pNew := by
  obtain ⟨cnt, pwm⟩ := (s.ports.clean_iff).mp hp
  obtain ⟨v, ht⟩ := tick_complete P s ha cnt pwm
  rw [ht]
  exact v.i_eq

/-- Without the clamp each clean cycle adds its error (R129). -/
theorem afterCycles_iPrev (ps : List (TickSample Num)) {s : State} (ha : s.accepts = true)
    (off : s.cfg.iclampEn = false) (hps : ∀ p ∈ ps, p.clean = true) :
    (afterCycles ps s).ctl.iPrev =
      s.ctl.iPrev + ((cycles ps s).map (fun t => t.lat.pNew)).sum := by
  induction ps generalizing s with
  | nil => simp [cycles]
  | cons p ps ih =>
    obtain ⟨clean, rest⟩ := List.forall_mem_cons.mp hps
    have accepts : (afterTick p s).accepts = true := tick_accepts_of_clean params ha clean
    have cfg : (afterTick p s).cfg = s.cfg := tick_cfg params _
    have one : (afterTick p s).ctl.iPrev = s.ctl.iPrev + (afterTick p s).lat.pNew :=
      (tick_iPrev_of_clean params (s := startEvent p s) ha clean).trans (integral_off _ _ _ off)
    rw [afterCycles_cons, ih accepts (by rw [cfg, off]) rest, one, cycles_cons, List.map_cons,
      List.sum_cons, add_assoc]

/-! ### The reversal flag -/

/-- A port access with the sampled target negated. -/
def PortAccess.negTarget (P : Params N) : PortAccess N → PortAccess N
  | .targetSample t => .targetSample (negN P t)
  | .cntRead c => .cntRead c
  | .cntClear => .cntClear
  | .pwmWrite a b => .pwmWrite a b

/-- The block with `CTRL.REVERSE` clear whose target source presents, and has presented, the negated
target (R121). -/
def State.Of.unreverse (P : Params N) (s : State.Of N) : State.Of N :=
  { s with
    cfg := { s.cfg with reverse := false }
    ports := { s.ports with tgt := negN P s.ports.tgt }
    portLog := s.portLog.map (PortAccess.negTarget P) }

section Unreverse

variable (P : Params N) (s : State.Of N)

theorem unreverse_lifecycle : (s.unreverse P).lifecycle = s.lifecycle := rfl

/-- The flag leaves the assignment of the channels alone (R121). -/
theorem pwmCommand_reverse (c : MotorConfig N) (b : Bool) (u : N) :
    pwmCommand P { c with reverse := b } u = pwmCommand P c u := rfl

theorem rdrst_unreverse : rdrst (s.unreverse P) = (rdrst s).unreverse P := by
  cases hc : s.ports.cntFail with
  | true => rw [rdrst_fault s hc, rdrst_fault (s.unreverse P) hc]; rfl
  | false =>
    rw [rdrst_ok s hc, rdrst_ok (s.unreverse P) hc]
    simp [State.Of.unreverse, PortAccess.negTarget]

theorem map_unreverse : map P (s.unreverse P) = (map P s).unreverse P := by
  cases hp : s.ports.pwmFail with
  | true => rw [map_fault P s hp, map_fault P (s.unreverse P) hp]; rfl
  | false =>
    rw [map_ok P s hp, map_ok P (s.unreverse P) hp]
    simp [State.Of.unreverse, PortAccess.negTarget, pwmCommand_reverse]

/-- The one place that reads the flag: there the negated target is negated once, by the flag or by
the source. -/
theorem tgt_unreverse (reversed : s.cfg.reverse = true) :
    tgt P (s.unreverse P) = (tgt P s).unreverse P := by
  rw [tgt_eq, tgt_eq]
  simp [State.Of.unreverse, PortAccess.negTarget, reversed]

theorem microOp_unreverse (i : Instr N) (reversed : s.cfg.reverse = true) :
    microOp P i (s.unreverse P) = (microOp P i s).unreverse P := by
  cases i with
  | rdrst => exact rdrst_unreverse P s
  | tgt => exact tgt_unreverse P s reversed
  | map => exact map_unreverse P s
  | est | pid | commit | nop | init | tick | rd _ | wr _ _ => rfl

theorem microOp_cfg (i : Instr N) : (microOp P i s).cfg = s.cfg := by
  cases i with
  | rdrst => exact (rdrst_frame s).cfg
  | map => exact (map_frame P s).cfg
  | est | tgt | pid | commit | nop | init | tick | rd _ | wr _ _ => rfl

theorem cycleLoop_of_noMicroWord (n : Nat) (h : (fetchMicro s.phase : Option (Instr N)) = none) :
    cycleLoop P n s = s := by
  cases n with
  | zero => rfl
  | succ n =>
    unfold cycleLoop
    rw [h]
    exact ite_self s

theorem cycleLoop_unreverse (n : Nat) (reversed : s.cfg.reverse = true) :
    cycleLoop P n (s.unreverse P) = (cycleLoop P n s).unreverse P := by
  induction n generalizing s with
  | zero => rfl
  | succ n ih =>
    by_cases ended : s.phase = 0 ∨ s.lifecycle = .fault
    · rw [cycleLoop_done P _ s ended, cycleLoop_done P _ (s.unreverse P) ended]
    · obtain ⟨h0, h1⟩ := not_or.mp ended
      cases hf : (fetchMicro s.phase : Option (Instr N)) with
      | none =>
        rw [cycleLoop_of_noMicroWord P s _ hf, cycleLoop_of_noMicroWord P (s.unreverse P) _ hf]
      | some i =>
        rw [cycleLoop_step P n s i h0 h1 hf, cycleLoop_step P n (s.unreverse P) i h0 h1 hf,
          microOp_unreverse P s i reversed, ih _ (by rw [microOp_cfg, reversed])]

theorem runCycle_unreverse (reversed : s.cfg.reverse = true) :
    runCycle P (s.unreverse P) = (runCycle P s).unreverse P := by
  have loop : cycleLoop P 6 { s.unreverse P with lifecycle := .running, phase := 1 } =
      (cycleLoop P 6 { s with lifecycle := .running, phase := 1 }).unreverse P :=
    cycleLoop_unreverse P { s with lifecycle := .running, phase := 1 } 6 reversed
  unfold runCycle
  rw [loop]
  rfl

theorem tick_unreverse (reversed : s.cfg.reverse = true) :
    tick P (s.unreverse P) = (tick P s).unreverse P := by
  unfold tick
  rw [unreverse_lifecycle]
  cases s.lifecycle with
  | unconf | fault => rfl
  | idle | running => exact runCycle_unreverse P s reversed

end Unreverse

/-- A row of reversed cycles, tick by tick, is the row of unreversed ones on negated targets (R121). -/
theorem cycles_unreverse (ps : List (TickSample Num)) {s : State} (reversed : s.cfg.reverse = true) :
    cycles (ps.map TickSample.negTarget) (s.unreverse params) =
      (cycles ps s).map (State.Of.unreverse params) := by
  induction ps generalizing s with
  | nil => rfl
  | cons p ps ih =>
    have one : afterTick p.negTarget (s.unreverse params) = (afterTick p s).unreverse params :=
      tick_unreverse params (startEvent p s) reversed
    have cfg : (afterTick p s).cfg = s.cfg := tick_cfg params _
    rw [List.map_cons, cycles_cons, cycles_cons, List.map_cons, one, ih (by rw [cfg, reversed])]

/-- A tick's sample replaces what the ports presented before it. -/
theorem cycles_of_startEvent_eq (ps : List (TickSample Num)) {s t : State}
    (h : ∀ p, startEvent p s = startEvent p t) : cycles ps s = cycles ps t := by
  cases ps with
  | nil => rfl
  | cons p ps => rw [cycles_cons, cycles_cons, afterTick, afterTick, h p]

end Sys2Proof.Machine
end

section
/-! PROOFS. The settled statements about target intake and the PID controller (43_target_and_pid.md). -/

namespace Sys2Proof.Proofs

open Sys2Proof.Machine

/-- Settles O36: PID stands in the micro-program only and is one update, whose four values are the
formulas of R122 on the cells. -/
theorem pidComputesTheControlOutput : Obligations.PidComputesTheControlOutput := by
  refine ⟨⟨rfl, rfl, rfl⟩, fun s =>
    ⟨(pid params s).lat.pNew, (pid params s).lat.iNew, (pid params s).lat.dNew, (pid params s).lat.u,
      ?next, ?p, ?sum, ?clamped, ?d, ?u⟩⟩
  case next => rw [exec_eq_effect, effect, pid_eq]
  case p => rw [pid_pNew, params_sub]
  case sum =>
    intro off
    rw [pid_iNew, integral_off _ _ _ off]
  case clamped =>
    intro on _
    rw [pid_iNew, integral_written, if_pos on, clampN_written]
    simp only [params_lt, params_add, decide_eq_true_eq]
  case d => rw [pid_dNew, params_sub]
  case u => rw [pid_u, controlOutput_eq]

/-- Settles O37: PID latches the clamped sum and forms the output from the latch; a cycle that ends in
RUNNING commits that latch (R125, R128). -/
theorem integralClampBoundsTheIntegral : Obligations.IntegralClampBoundsTheIntegral := by
  simp only [Obligations.IntegralClampBoundsTheIntegral, exec_eq_effect, Host.Outcome.next.injEq]
  refine ⟨?latched, ?stored, ?unread⟩
  case latched =>
    rintro s _ on ordered rfl
    exact ⟨(pid_iNew params s).trans (integral_on _ _ _ on ordered),
      (pid_u params s).trans (controlOutput_eq _ _ _ _)⟩
  case stored =>
    rintro s _ on ordered ha rfl running
    rw [effect, tick_iPrev_of_clean params ha (clean_of_tick_running params ha running)]
    exact integral_mem on ordered _ _
  case unread =>
    rintro s _ lo hi off rfl
    exact pid_clampRange_unread params s lo hi off

/-- Settles O52: each clean cycle adds its error to the integral it stored (R129). -/
theorem integralIsARunningSum : Obligations.IntegralIsARunningSum := by
  intro ps s ha off hps
  have sum := afterCycles_iPrev ps ha off hps
  refine ⟨length_cycles ps s, sum, fun x hx => ?_⟩
  have errors : ((cycles ps s).map (fun t => t.lat.pNew)).sum = ps.length * x := by
    rw [List.sum_eq_card_nsmul _ x (List.forall_mem_map.mpr hx), List.length_map, length_cycles,
      nsmul_eq_mul]
  rw [sum, errors]

/-- Settles O53: the reversed row and the unreversed one correspond state by state, and the
correspondence keeps all that is compared (R121). -/
theorem reversalNegatesTheTargetOnly : Obligations.ReversalNegatesTheTargetOnly := by
  intro ps s reversed
  have start : cycles (ps.map TickSample.negTarget) { s with cfg := { s.cfg with reverse := false } } =
      cycles (ps.map TickSample.negTarget) (s.unreverse params) :=
    cycles_of_startEvent_eq _ fun _ => rfl
  rw [start, cycles_unreverse ps reversed, List.map_map]
  rfl

/-- Settles O35: TGT stands in the micro-program only and is one update (R120). -/
theorem tgtTakesTheTarget : Obligations.TgtTakesTheTarget := by
  refine ⟨⟨rfl, rfl, rfl⟩, fun s => ?_⟩
  rw [exec_eq_effect, effect, tgt_eq, negN_eq]

end Sys2Proof.Proofs
end

section
/-! SUPPORT. MAP's pair of duties over the rationals: which channel drives, and what the duty of a
magnitude is at both ends of its range (44_pwm_mapper.md R136 to R141). -/

namespace Sys2Proof.Machine

/-- A state MAP answers without a reported failure holds the pair of its output. -/
theorem duty_of_exec_map {s t : State} (ok : s.ports.pwmFail = false) (ht : exec .map s = .next t) :
    t.duty = pwmCommand params s.cfg s.lat.u := by
  rw [exec_eq_effect] at ht
  cases ht
  exact map_duty params s ok

/-! ### The driving channel -/

/-- An output that is not negative drives channel A (R136). -/
theorem pwmCommand_of_nonneg (c : MotorConfig Num) {u : Num} (hu : 0 ≤ u) :
    pwmCommand params c u = { a := dutyOf params c.pwmMax |u|, b := c.pwmMin } := by
  simp [pwmCommand, hu, abs_of_nonneg]

/-- A negative output drives channel B with its negation (R137). -/
theorem pwmCommand_of_neg (c : MotorConfig Num) {u : Num} (hu : u < 0) :
    pwmCommand params c u = { a := c.pwmMin, b := dutyOf params c.pwmMax |u| } := by
  simp [pwmCommand, hu, abs_of_neg]

/-! ### The duty of a magnitude -/

/-- Truncating before clamping gives the same (R139). -/
theorem floor_min_intCast (v : Num) (m : Int) : ⌊min v (m : Rat)⌋ = min ⌊v⌋ m := by
  rw [Int.floor_mono.map_min, Int.floor_intCast]

/-- A magnitude beyond the bound has the bound as its duty (R138). -/
theorem dutyOf_of_gt {m : I32} {v : Num} (hm : 0 ≤ m.toInt) (hv : (m.toInt : Rat) < v) :
    dutyOf params m v = m := by
  have nonneg : 0 ≤ v := le_trans (by exact_mod_cast hm) hv.le
  rw [dutyOf_eq m v hm nonneg, min_eq_right hv.le, Int.floor_intCast, BitVec.ofInt_toInt]

/-- The smaller of two integers that are not negative is 0 when one of them is (R141). -/
theorem dutyOf_eq_zero_iff {m : I32} {v : Num} (hm : 0 ≤ m.toInt) (hv : 0 ≤ v) :
    dutyOf params m v = 0 ↔ v < 1 ∨ m = 0 := by
  obtain ⟨value, -, -⟩ := dutyOf_toInt m v hm hv
  have zero (d : I32) : d = 0 ↔ d.toInt = 0 := BitVec.toInt_inj.symm
  have magnitude : ⌊v⌋ = 0 ↔ v < 1 := by simp [Int.floor_eq_zero_iff, hv]
  have nonneg : 0 ≤ ⌊v⌋ := Int.floor_nonneg.mpr hv
  calc dutyOf params m v = 0
    _ ↔ min ⌊v⌋ m.toInt = 0 := by rw [zero, value, floor_min_intCast]
    _ ↔ ⌊v⌋ = 0 ∨ m.toInt = 0 := by omega
    _ ↔ v < 1 ∨ m = 0 := by rw [magnitude, zero m]

/-- A duty in range is between 0 and a bound that is not negative (R138). -/
theorem DutyInRange.between {m d : I32} (h : DutyInRange m d) (hm : 0 ≤ m.toInt) :
    0 ≤ d.toInt ∧ d.toInt ≤ m.toInt := by
  obtain rfl | range := h
  · exact ⟨le_rfl, hm⟩
  · exact range

end Sys2Proof.Machine
end

section
/-! PROOFS. The settled statements about the PWM mapper (44_pwm_mapper.md). -/

namespace Sys2Proof.Proofs

open Sys2Proof.Machine

/-- Settles O38: MAP stands in the micro-program only and is one update, whose pair is the duty of the
magnitude on the channel of the sign (R135 to R137, R140). -/
theorem mapHandsOverTheTwoDuties : Obligations.MapHandsOverTheTwoDuties := by
  refine ⟨⟨rfl, rfl, rfl⟩, fun s ok => ⟨pwmCommand params s.cfg s.lat.u, ?next, fun hmax => ?pair⟩⟩
  case next => rw [exec_eq_effect, effect, map_ok params s ok]
  case pair =>
    split
    next hu =>
      rw [pwmCommand_of_nonneg _ hu, dutyOf_eq _ _ hmax (abs_nonneg _), abs_of_nonneg hu]
    next hu =>
      have neg : s.lat.u < 0 := not_le.mp hu
      rw [pwmCommand_of_neg _ neg, dutyOf_eq _ _ hmax (abs_nonneg _), abs_of_neg neg]

/-- Settles O39: beyond the bound the sign decides the channel and the duty is the bound; the range is
the one every duty of MAP is in (R138). -/
theorem mapSaturatesAtPwmMax : Obligations.MapSaturatesAtPwmMax := by
  intro s t ok hmin hmax ht
  have bound : (0 : Rat) ≤ (s.cfg.pwmMax.toInt : Rat) := by exact_mod_cast hmax
  rw [duty_of_exec_map ok ht]
  refine ⟨fun above => ?above, fun below => ?below, ?range⟩
  case above =>
    rw [pwmCommand_of_nonneg _ (bound.trans above.le), dutyOf_of_gt hmax (lt_abs.mpr (.inl above)),
      hmin]
  case below =>
    have neg : s.lat.u < 0 := below.trans_le (neg_nonpos.mpr bound)
    rw [pwmCommand_of_neg _ neg, dutyOf_of_gt hmax (lt_abs.mpr (.inr (lt_neg_of_lt_neg below))), hmin]
  case range =>
    obtain ⟨a, b⟩ := pwmCommand_inRange hmin hmax s.lat.u
    exact and_assoc.mp ⟨a.between hmax, b.between hmax⟩

/-- Settles O40: the integer is the floor of the clamped magnitude, which the driving duty holds
(R139). -/
theorem mapTruncatesTowardZero : Obligations.MapTruncatesTowardZero := by
  intro s t ok hmax ht
  obtain ⟨value, h0, h1⟩ := dutyOf_toInt s.cfg.pwmMax |s.lat.u| hmax (abs_nonneg _)
  rw [value] at h0 h1
  refine ⟨_, Int.floor_le _, Int.lt_floor_add_one _, h0, h1, floor_min_intCast _ _, ?driving⟩
  rw [duty_of_exec_map ok ht]
  split
  next hu => rw [pwmCommand_of_nonneg _ hu, value]
  next hu => rw [pwmCommand_of_neg _ (not_le.mp hu), value]

/-- Settles O41: the idle channel is at `PWM_MIN`, which is 0, and the driving duty is 0 exactly when
the magnitude is below 1 or the bound is 0 (R141). -/
theorem mapDrivesAtMostOneChannel : Obligations.MapDrivesAtMostOneChannel := by
  intro s t ok hmin hmax ht
  rw [duty_of_exec_map ok ht, ← abs_lt, ← dutyOf_eq_zero_iff hmax (abs_nonneg _)]
  refine ⟨hmin ▸ pwmCommand_idle s.cfg s.lat.u, ?both⟩
  obtain hu | hu := le_or_gt 0 s.lat.u
  · rw [pwmCommand_of_nonneg _ hu, and_iff_left hmin]
  · rw [pwmCommand_of_neg _ hu, and_iff_right hmin]

/-- Settles O42: a failed write draws the external duties and raises PwmFault, and nothing else changes
(R143). -/
theorem mapFailureRaisesPwmFault : Obligations.MapFailureRaisesPwmFault := by
  intro s failed
  refine ⟨(pwmWriteFailed s).pwmExt, (pwmWriteFailed s).freeCount, ?_⟩
  rw [exec_eq_effect, effect, map_fault params s failed]
  rfl

end Sys2Proof.Proofs
end

section
/-! SUPPORT. `STATE` after each operation outside the micro-program, the six steps of a cycle and what
they hand on, and what construction has checked of the clamp range (45_loop_driver.md R145 to R151). -/

namespace Sys2Proof.Machine

variable {N : Type}

/-! ### The events that are commands -/

theorem isInitEvent_iff (i : Instr N) :
    isInitEvent i = true ↔ i = .init ∨ i = .wr Reg.cmd.number (.int 1) := by
  cases i with
  | wr n v => cases v <;> simp [isInitEvent, Reg.number]
  | _ => simp [isInitEvent]

theorem isTickEvent_iff (i : Instr N) :
    isTickEvent i = true ↔ i = .tick ∨ i = .wr Reg.cmd.number (.int 2) := by
  cases i with
  | wr n v => cases v <;> simp [isTickEvent, Reg.number]
  | _ => simp [isTickEvent]

variable (P : Params N) {s : State.Of N}

/-! ### A tick -/

theorem tick_of_accepts (ha : s.accepts = true) : tick P s = runCycle P s := by
  obtain hl | hl := (accepts_iff s).mp ha <;> simp [tick, hl]

theorem tick_of_fault (hf : s.lifecycle = .fault) : tick P s = { s with out := .tick .dropped } := by
  simp [tick, hf, dropTick]

/-! ### A write to `CMD` is its command in every state (R145; in FAULT log 14 and log 15) -/

theorem wr_cmd_init (s : State.Of N) : wr P Reg.cmd.number (.int 1) s = init P s := by
  by_cases hf : s.lifecycle = .fault
  · simp [wr, dropWrite, init, hf]
  · rw [wr_cmd_live P 1 s hf, (executeCommand_legal P s).2.1]

theorem wr_cmd_tick (s : State.Of N) : wr P Reg.cmd.number (.int 2) s = tick P s := by
  by_cases hf : s.lifecycle = .fault
  · simp [wr, dropWrite, tick, hf]
  · rw [wr_cmd_live P 2 s hf, (executeCommand_legal P s).2.2]

theorem effect_of_isInitEvent {i : Instr N} (hi : isInitEvent i = true) (s : State.Of N) :
    effect P i s = init P s := by
  obtain rfl | rfl := (isInitEvent_iff i).mp hi
  · rfl
  · exact wr_cmd_init P s

theorem effect_of_isTickEvent {i : Instr N} (hi : isTickEvent i = true) (s : State.Of N) :
    effect P i s = tick P s := by
  obtain rfl | rfl := (isTickEvent_iff i).mp hi
  · rfl
  · exact wr_cmd_tick P s

/-! ### `STATE` after an operation (R149) -/

theorem rd_lifecycle (n : RegNum) (s : State.Of N) : (rd n s).lifecycle = s.lifecycle := by
  obtain ⟨r, -, ht⟩ | ⟨-, -, ht⟩ | ⟨-, -, ht⟩ := rd_cases n s
  · rw [ht]
  · rw [ht]
  · rw [ht, raise_recorded_lifecycle _ _ rfl]

/-- A write that carries neither `INIT` nor `TICK` is dropped, refused, a NOP or a store. -/
theorem wr_lifecycle (n : RegNum) (v : Payload N) (s : State.Of N)
    (noInit : isInitEvent (.wr n v) = false) (noTick : isTickEvent (.wr n v) = false) :
    (wr P n v s).lifecycle = s.lifecycle := by
  obtain ⟨-, ht | ⟨-, -, ht⟩⟩ | ⟨-, -, ht⟩ | ⟨-, -, ht⟩ | ⟨-, -, -, ht⟩ | ⟨-, rfl, rfl, -⟩ |
    ⟨-, rfl, rfl, -⟩ | ⟨-, -, -, ht⟩ | ⟨-, r, -, -, -, ht⟩ := wr_cases P n v s
  · rw [ht]
  · rw [ht]
  · rw [ht, raise_recorded_lifecycle _ _ rfl]
  · rw [ht, raise_recorded_lifecycle _ _ rfl]
  · rw [ht]
  · cases noInit
  · cases noTick
  · rw [ht, raise_recorded_lifecycle _ _ rfl]
  · rw [ht]

theorem effect_lifecycle_of_noCommand (i : Instr N) (s : State.Of N) (hi : i.isMicro = false)
    (noInit : isInitEvent i = false) (noTick : isTickEvent i = false) :
    (effect P i s).lifecycle = s.lifecycle := by
  cases i with
  | nop => rfl
  | rd n => exact rd_lifecycle n s
  | wr n v => exact wr_lifecycle P n v s noInit noTick
  | init => cases noInit
  | tick => cases noTick
  | rdrst | est | tgt | pid | map | commit => cases hi

theorem init_lifecycle (s : State.Of N) :
    (init P s).lifecycle =
      if s.lifecycle = .unconf ∧ (validityMask P s.cfg).any = false then .idle else s.lifecycle := by
  obtain ⟨hl, ht⟩ | ⟨ha, ht⟩ | ⟨hl, hv, ht⟩ | ⟨hl, hv, ht⟩ := init_cases P s
  · rw [ht, if_neg (by simp [hl])]
  · rw [ht, raise_recorded_lifecycle _ _ rfl, if_neg (by simp [ne_unconf_of_accepts ha])]
  · rw [ht, raise_recorded_lifecycle _ _ rfl, if_neg (by simp [hv])]
  · rw [ht, if_pos ⟨hl, hv⟩]

theorem tick_lifecycle (s : State.Of N) :
    (tick P s).lifecycle =
      if s.accepts then (if s.ports.cntFail || s.ports.pwmFail then .fault else .running)
      else s.lifecycle := by
  obtain ⟨hl, ht⟩ | ⟨hl, ht⟩ | ⟨ha, hc⟩ | ⟨ha, hc, hp⟩ | ⟨ha, hc, hp⟩ := tick_cases P s
  · simp [ht, hl, State.Of.accepts, Exc.fatal]
  · simp [ht, hl, State.Of.accepts]
  · simp [tick_cntFault P s ha hc, ha, hc]
  · obtain ⟨v, ht⟩ := tick_pwmFault P s ha hc hp
    simp [ht, ha, hp]
  · obtain ⟨v, ht⟩ := tick_complete P s ha hc hp
    simp [ht, ha, hc, hp]

/-- The three kinds of events are the rows of the transition table. -/
theorem effect_lifecycle (i : Instr) (s : State) (hi : i.isMicro = false) :
    (effect params i s).lifecycle = lifecycleAfter i s := by
  cases hinit : isInitEvent i with
  | true =>
    have noTick : isTickEvent i = false := by
      obtain rfl | rfl := (isInitEvent_iff i).mp hinit <;> rfl
    rw [effect_of_isInitEvent params hinit, init_lifecycle]
    cases hl : s.lifecycle <;> simp [lifecycleAfter, hl, hinit, noTick]
  | false =>
    cases htick : isTickEvent i with
    | true =>
      rw [effect_of_isTickEvent params htick, tick_lifecycle]
      cases hl : s.lifecycle <;> simp [lifecycleAfter, State.Of.accepts, hl, hinit, htick]
    | false =>
      rw [effect_lifecycle_of_noCommand params i s hi hinit htick]
      cases hl : s.lifecycle <;> simp [lifecycleAfter, hl, hinit, htick]

/-! ### The six steps of a cycle (R146) -/

theorem rdrst_lifecycle (hc : s.ports.cntFail = false) : (rdrst s).lifecycle = s.lifecycle := by
  rw [rdrst_ok s hc]

theorem rdrst_phase (hc : s.ports.cntFail = false) : (rdrst s).phase = 2 := by
  rw [rdrst_ok s hc]

theorem rdrst_pwmFail (hc : s.ports.cntFail = false) :
    (rdrst s).ports.pwmFail = s.ports.pwmFail := by
  rw [rdrst_ok s hc]

theorem map_lifecycle (hp : s.ports.pwmFail = false) : (map P s).lifecycle = s.lifecycle := by
  rw [map_ok P s hp]

theorem map_phase (hp : s.ports.pwmFail = false) : (map P s).phase = 6 := by
  rw [map_ok P s hp]

theorem cycleResult_of_running (hl : s.lifecycle = .running) :
    cycleResult s = .ok s.duty.a s.duty.b := by
  simp [cycleResult, hl]

/-- Before MAP no step of a cycle writes the fault input that MAP reads. -/
theorem fourSteps_pwmFail (hc : s.ports.cntFail = false) :
    (pid P (tgt P (est P (rdrst s)))).ports.pwmFail = s.ports.pwmFail :=
  rdrst_pwmFail hc

theorem fiveSteps_phase (hc : s.ports.cntFail = false) (hp : s.ports.pwmFail = false) :
    (map P (pid P (tgt P (est P (rdrst s))))).phase = 6 :=
  map_phase P ((fourSteps_pwmFail P hc).trans hp)

theorem sixSteps_lifecycle (hc : s.ports.cntFail = false) (hp : s.ports.pwmFail = false) :
    (commit (map P (pid P (tgt P (est P (rdrst s)))))).lifecycle = s.lifecycle :=
  (map_lifecycle P ((fourSteps_pwmFail P hc).trans hp)).trans (rdrst_lifecycle hc)

/-- A cycle that is not cut short is its six steps and the result. -/
theorem tick_eq_sixSteps {s6 : State.Of N} (ha : s.accepts = true) (hc : s.ports.cntFail = false)
    (hp : s.ports.pwmFail = false)
    (h6 : s6 =
      commit (map P (pid P (tgt P (est P (rdrst { s with lifecycle := .running, phase := 1 })))))) :
    tick P s = { s6 with out := .tick (.ok s6.duty.a s6.duty.b) } := by
  have running : s6.lifecycle = .running := h6 ▸ sixSteps_lifecycle P hc hp
  rw [tick_of_accepts P ha, runCycle, cycle_complete P s hc hp, ← h6, cycleResult_of_running running]

/-! ### The formulas of a configuration that passed -/

/-- What construction has checked of the clamp range (46_host_access_and_construction.md R170). -/
theorem clampRange_of_valid {c : MotorConfig Num} (h : (validityMask params c).any = false)
    (on : c.iclampEn = true) : c.iclampLo ≤ c.iclampHi := by
  simp only [CfgDetail.any, validityMask, Bool.or_eq_false_iff, on, Bool.true_and, params_le,
    Bool.not_eq_false', decide_eq_true_eq] at h
  obtain ⟨⟨-, ordered⟩, -⟩ := h
  exact ordered

theorem rawSpeed_of_valid {c : MotorConfig Num} (h : (validityMask params c).any = false)
    (delta : I32) :
    rawSpeed params c delta =
      ((delta.toInt : Rat) / (c.gear * c.encRes)) * (60000 / (c.sampleMs.toInt : Rat)) := by
  obtain ⟨gear, encRes, sampleMs⟩ := speedDivisors_of_valid h
  exact rawSpeed_eq c delta (mul_pos gear encRes).ne' sampleMs.ne'

theorem integral_of_valid {c : MotorConfig Num} (h : (validityMask params c).any = false)
    (iPrev p : Num) :
    integral params c iPrev p =
      if c.iclampEn then max c.iclampLo (min (iPrev + p) c.iclampHi) else iPrev + p := by
  split
  next on => exact integral_on c iPrev p on (clampRange_of_valid h on)
  next off => exact integral_off c iPrev p (Bool.eq_false_iff.mpr off)

theorem pwmCommand_of_valid {c : MotorConfig Num} (h : (validityMask params c).any = false)
    (u : Num) :
    pwmCommand params c u =
      if 0 ≤ u then { a := BitVec.ofInt 32 ⌊min u (c.pwmMax.toInt : Rat)⌋, b := 0 }
      else { a := 0, b := BitVec.ofInt 32 ⌊min (-u) (c.pwmMax.toInt : Rat)⌋ } := by
  obtain ⟨hmin, hmax⟩ := pwm_of_valid h
  split
  next hu => rw [pwmCommand_of_nonneg c hu, dutyOf_eq _ _ hmax (abs_nonneg u), abs_of_nonneg hu, hmin]
  next hu =>
    have neg : u < 0 := not_le.mp hu
    rw [pwmCommand_of_neg c neg, dutyOf_eq _ _ hmax (abs_nonneg u), abs_of_neg neg, hmin]

end Sys2Proof.Machine
end

section
/-! PROOFS. The settled statements about the control loop driver (45_loop_driver.md). -/

namespace Sys2Proof.Proofs

open Sys2Proof.Machine

/-- Settles O13: an event is an INIT, a TICK or neither, and each of the three follows its rows of the
table; RESET comes before any of them (R149). -/
theorem lifecycleFollowsTheTransitionTable : Obligations.LifecycleFollowsTheTransitionTable := by
  refine ⟨?operation, ?reset⟩
  case operation =>
    intro i s t hi ht
    rw [exec_eq_effect] at ht
    cases ht
    exact effect_lifecycle i s hi
  case reset =>
    intro s t a rest ha hr ht
    rw [step_of_reset s a rest ha hr] at ht
    cases ht
    exact resetBlock_lifecycle ..

/-- Settles O45: the six states are the micro-operations applied one to the next, and the loop of TICK
runs through the same ones (R145 to R147). -/
theorem tickIsTheSixStepsInOrder : Obligations.TickIsTheSixStepsInOrder := by
  simp only [Obligations.TickIsTheSixStepsInOrder, exec_eq_effect, Host.Outcome.next.injEq]
  intro s ha hc hp
  refine ⟨_, _, _, _, _, _, rfl, ?rdrst, rfl, rfl, rfl, rfl, rfl, rfl, rfl, ?map, rfl, rfl, ?tick⟩
  case rdrst => exact rdrst_phase hc
  case map => exact fiveSteps_phase params hc hp
  case tick => exact tick_eq_sixSteps params ha hc hp rfl

/-- Settles O46: the values of a completed cycle are the formulas, which a configuration that passed
every check makes those of the rule (R146). -/
theorem tickRunsOneWholeCycle : Obligations.TickRunsOneWholeCycle := by
  intro s ha valid hc hp
  obtain ⟨v, ht⟩ := tick_complete params s ha hc hp
  have d : v.d = v.p - s.ctl.pPrev := v.d_eq
  refine ⟨v.raw, v.vel, v.target, v.p, v.i, v.u, pwmCommand params s.cfg v.u,
    ?next, ?raw, ?vel, ?target, v.p_eq, ?i, ?u, pwmCommand_of_valid valid v.u⟩
  case next => rw [exec_eq_effect, effect, ht, CycleValues.latches, d]
  case raw => rw [v.raw_eq, rawSpeed_of_valid valid, signExtend_count]
  case vel => rw [v.vel_eq, filtered_eq]
  case target => rw [v.target_eq, negN_eq]
  case i => rw [v.i_eq, integral_of_valid valid]
  case u => rw [v.u_eq, controlOutput_eq, d]

/-- Settles O43: COMMIT stands in the micro-program only and is one update (R148). -/
theorem commitStoresTheMemories : Obligations.CommitStoresTheMemories := by
  refine ⟨⟨rfl, rfl, rfl⟩, fun s => ?_⟩
  rw [exec_eq_effect, effect, commit_eq]

/-- Settles O47: in UNCONF the tick is a recorded exception, in FAULT only its result is written
(R151). -/
theorem tickOutsideIdleAndRunning : Obligations.TickOutsideIdleAndRunning := by
  simp only [Obligations.TickOutsideIdleAndRunning, exec_eq_effect, Host.Outcome.next.injEq]
  refine ⟨?unconf, ?fault⟩
  case unconf => exact fun s hl => tick_of_unconf params s hl
  case fault => exact fun s hl => tick_of_fault params hl

end Sys2Proof.Proofs
end

section
/-! SUPPORT. What a read and a write of the bus do in each of their cases, and what a store leaves in the cell it
names (46_host_access_and_construction.md R160, R161, R163; 10_state.md R33). -/

namespace Sys2Proof.Machine

variable {N : Type}

/-! ### Reads -/

/-- The header of a read is the register number (30_encoding.md R82). -/
theorem decode_read_header (n : RegNum) : decode (.bus (n.setWidth 8) none) = .ok (.rd n : Instr N) := by
  have hheader : n.setWidth 8 = busHeader false n := by revert n; decide
  rw [hheader]
  exact decodeBus_read n

theorem rd_number (r : Reg) (s : State.Of N) : rd r.number s = { s with out := .rdata (readCell r s) } := by
  simp only [rd, Reg.ofNumber_number]

/-- Of a number that names no cell a read returns `int 0`, and raises outside FAULT (R160). -/
theorem rd_unassigned (n : RegNum) (s : State.Of N) (hn : ∀ r : Reg, r.number ≠ n) :
    rd n s =
      if s.lifecycle = .fault then { s with out := .rdata (.int 0) }
      else raise .illAddr { s with out := .rdata (.int 0) } := by
  simp only [rd, Reg.ofNumber_none n hn]

/-! ### Writes -/

variable (P : Params N)

theorem wr_of_live (n : RegNum) (v : Payload N) {s : State.Of N} (live : s.lifecycle ≠ .fault) :
    wr P n v s = writeLive P n v s :=
  if_neg live

theorem wr_unassigned (n : RegNum) (v : Payload N) {s : State.Of N} (live : s.lifecycle ≠ .fault)
    (hn : ∀ r : Reg, r.number ≠ n) : wr P n v s = raise .illAddr s := by
  simp only [wr_of_live P n v live, writeLive, Reg.ofNumber_none n hn]

theorem wr_cmd_num (x : N) {s : State.Of N} (live : s.lifecycle ≠ .fault) :
    wr P Reg.cmd.number (.num x) s = raise .wrDenied s := by
  rw [wr_of_live P _ _ live]
  rfl

/-- `NOP` by a write to `CMD` (R163, R164); FAULT drops it, to the same effect. -/
theorem wr_cmd_nop (s : State.Of N) : wr P Reg.cmd.number (.int 0) s = s := by
  by_cases hf : s.lifecycle = .fault
  · simp [wr, dropWrite, hf]
  · rw [wr_cmd_live P 0 s hf, (executeCommand_legal P s).1]

/-- Outside FAULT a write of a cell other than `CMD` passes all three checks or is denied (R161). -/
theorem wr_cell (r : Reg) (v : Payload N) {s : State.Of N} (live : s.lifecycle ≠ .fault) (hr : r ≠ .cmd) :
    wr P r.number v s =
      if r.bank = .motorConfig ∧ s.lifecycle = .unconf ∧ v.cellType = r.cellType then
        { s with cfg := storeConfig r v s.cfg }
      else raise .wrDenied s := by
  rw [wr_of_live P _ v live]
  simp only [writeLive, Reg.ofNumber_number, if_neg hr]
  by_cases hbank : r.bank = .motorConfig
  · by_cases hstate : s.lifecycle = .unconf
    · by_cases htype : v.cellType = r.cellType <;> simp [hbank, hstate, htype]
    · simp [hbank, hstate]
  · simp [hbank]

/-! ### The cell a store names -/

/-- `CTRL` keeps bits 2:0 of the word written to it (10_state.md R33). -/
theorem ctrlWord_store (w : I32) (c : MotorConfig N) :
    (storeConfig .ctrl (.int w) c).ctrlWord = w &&& 7 := by
  have hfield (k : Nat) : (w.getLsbD k).toNat = w.toNat / 2 ^ k % 2 := Nat.toNat_testBit ..
  have hlow : (w &&& 7).toNat = w.toNat % 8 := Nat.and_two_pow_sub_one_eq_mod w.toNat 3
  apply BitVec.eq_of_toNat_eq
  simp only [storeConfig, MotorConfig.ctrlWord, bitAt, BitVec.toNat_ofNat, hfield, hlow]
  omega

theorem readCell_storeConfig_same (r : Reg) (v : Payload N) (s : State.Of N) (hbank : r.bank = .motorConfig)
    (htype : v.cellType = r.cellType) (hr : r ≠ .ctrl) :
    readCell r { s with cfg := storeConfig r v s.cfg } = v := by
  cases r with
  | cmd | status | cause | cfgDetail => cases hbank
  | vel | velPrev | pPrev | iPrev | target => cases hbank
  | dutyA | dutyB => cases hbank
  | delta | raw | pNew | iNew | dNew | u => cases hbank
  | ctrl => exact absurd rfl hr
  | sampleMs | pwmMin | pwmMax =>
    cases v with
    | int i => rfl
    | num x => cases htype
  | gear | encRes | kp | ki | kd | klpf | iclampLo | iclampHi =>
    cases v with
    | int i => cases htype
    | num x => rfl

end Sys2Proof.Machine
end

section
/-! SUPPORT. The validity mask as a value, what it says over the rationals, and INIT as one update in each of its
cases (46_host_access_and_construction.md R165, R170 to R172). -/

namespace Sys2Proof.Machine

variable {N : Type}

/-! ### The mask -/

theorem CfgDetail.any_eq_false_iff (d : CfgDetail) : d.any = false ↔ d = CfgDetail.zero := by
  obtain ⟨gear, res, period, k, pwm, clamp, gain⟩ := d
  simp [CfgDetail.zero, CfgDetail.any, and_assoc]

/-- The word of a mask is zero exactly when no check failed (10_state.md R26). -/
theorem CfgDetail.word_eq_zero_iff (d : CfgDetail) : d.word = 0 ↔ d.any = false := by
  constructor
  · intro hword
    obtain ⟨gear, res, period, k, pwm, clamp, gain, -⟩ := cfgDetail_word_fields d
    simp only [CfgDetail.any, ← gear, ← res, ← period, ← k, ← pwm, ← clamp, ← gain, hword]
    rfl
  · intro hany
    rw [d.any_eq_false_iff.mp hany]
    rfl

theorem CfgDetail.any_iff_word_ne_zero (d : CfgDetail) : d.any = true ↔ d.word ≠ 0 := by
  rw [ne_eq, d.word_eq_zero_iff, Bool.not_eq_false]

/-- The bits of the mask over the rationals, one for each check (R170). -/
theorem validityMask_bits (c : MotorConfig Num) :
    ((validityMask params c).gearBad = true ↔ ¬ 0 < c.gear) ∧
    ((validityMask params c).resBad = true ↔ ¬ 0 < c.encRes) ∧
    ((validityMask params c).periodBad = true ↔ ¬ 0 < c.sampleMs.toInt) ∧
    ((validityMask params c).kBad = true ↔ ¬ (0 ≤ c.klpf ∧ c.klpf ≤ 1)) ∧
    ((validityMask params c).pwmBad = true ↔ (c.pwmMin ≠ 0 ∨ c.pwmMax.toInt < 0)) ∧
    ((validityMask params c).iclampBad = true ↔ (c.iclampEn = true ∧ ¬ c.iclampLo ≤ c.iclampHi)) ∧
    ((validityMask params c).gainBad = true ↔ gainValid c.kp c.ki c.kd = false) := by
  refine ⟨?gear, ?res, ?period, ?k, ?pwm, ?clamp, ?gain⟩
  case k => simp [validityMask, imp_iff_not_or]
  all_goals simp [validityMask]

/-- What construction checks, over the rationals (R170). -/
theorem valid_iff (c : MotorConfig Num) :
    (validityMask params c).any = false ↔
      0 < c.gear ∧ 0 < c.encRes ∧ 0 < c.sampleMs.toInt ∧ (0 ≤ c.klpf ∧ c.klpf ≤ 1) ∧
      (c.pwmMin = 0 ∧ 0 ≤ c.pwmMax.toInt) ∧ (c.iclampEn = true → c.iclampLo ≤ c.iclampHi) ∧
      gainValid c.kp c.ki c.kd = true := by
  obtain ⟨gear, res, period, k, pwm, clamp, gain⟩ := validityMask_bits c
  rw [← Bool.not_eq_true]
  simp only [CfgDetail.any, Bool.or_eq_true, gear, res, period, k, pwm, clamp, gain]
  simp [and_assoc]

/-! ### INIT -/

variable (P : Params N)

theorem init_of_fault {s : State.Of N} (hf : s.lifecycle = .fault) : init P s = s := by
  simp only [init, hf]

/-- A configuration that fails a check is rejected (60_exceptions.md R183). -/
theorem init_of_invalid {s : State.Of N} (hl : s.lifecycle = .unconf)
    (invalid : (validityMask P s.cfg).any = true) :
    init P s =
      { s with
        cfgDetail := validityMask P s.cfg
        cause := some .cfgErr
        flags := { s.flags with cfgErr := true } } := by
  simp [init, hl, invalid, raise, Exc.fatal, StickyFlags.set]

/-- A configuration that passes every check is constructed (R165, R171). -/
theorem init_of_valid {s : State.Of N} (hl : s.lifecycle = .unconf)
    (valid : (validityMask P s.cfg).any = false) :
    init P s =
      { s with
        lifecycle := .idle
        cfgDetail := CfgDetail.zero
        ctl := ControllerState.zero (P.ofInt 0)
        lat := Latches.zero (P.ofInt 0) } := by
  rw [← (CfgDetail.any_eq_false_iff _).mp valid]
  simp [init, hl, valid, construct]

/-- In UNCONF every attempt overwrites `CFGDETAIL` (R172). -/
theorem init_cfgDetail {s : State.Of N} (hl : s.lifecycle = .unconf) :
    (init P s).cfgDetail = validityMask P s.cfg := by
  cases hv : (validityMask P s.cfg).any with
  | true => rw [init_of_invalid P hl hv]
  | false => rw [init_of_valid P hl hv, (CfgDetail.any_eq_false_iff _).mp hv]

theorem init_idle_iff {s : State.Of N} (hl : s.lifecycle = .unconf) :
    (init P s).lifecycle = .idle ↔ (validityMask P s.cfg).any = false := by
  simp [init_lifecycle, hl]

end Sys2Proof.Machine
end

section
/-! PROOFS. The settled statements about host access and construction (46_host_access_and_construction.md). -/

namespace Sys2Proof.Proofs

open Sys2Proof.Machine

/-- Settles O17: a read finds a number's cell, which reads its own field, or raises (R160). -/
theorem readReturnsTheCell : Obligations.ReadReturnsTheCell := by
  simp only [Obligations.ReadReturnsTheCell, exec_eq_effect, Host.Outcome.next.injEq]
  refine ⟨decode_read_header, rd_number, fun _ => rfl, ?fields, rd_unassigned⟩
  case fields => exact fun s => by simp only [readCell, and_self]

/-- Settles O19: the three checks pass, and the store changes the one cell it names. -/
theorem writeStoresAConfigurationCell : Obligations.WriteStoresAConfigurationCell := by
  intro r v s hl hbank htype
  have hwr : wr params r.number v s = { s with cfg := storeConfig r v s.cfg } :=
    (wr_cell params r v (by simp [hl]) (ne_cmd_of_motorConfig hbank)).trans (if_pos ⟨hbank, hl, htype⟩)
  refine ⟨_, (exec_eq_effect _ s).trans (congrArg _ hwr), ?same, ?ctrl, ?other, ⟨rfl, rfl, rfl, rfl⟩, rfl, rfl⟩
  case same => exact readCell_storeConfig_same r v s hbank htype
  case ctrl =>
    rintro w rfl rfl
    exact congrArg _ (ctrlWord_store w s.cfg)
  case other => exact fun r' hr => readCell_storeConfig_other r r' v s hr

/-- Settles O20: the number is unassigned, one of the three checks fails, or the payload is no command. -/
theorem refusedWritesChangeOnlyFlagAndCause : Obligations.RefusedWritesChangeOnlyFlagAndCause := by
  simp only [Obligations.RefusedWritesChangeOnlyFlagAndCause, exec_eq_effect, Host.Outcome.next.injEq]
  refine ⟨?unassigned, ?denied, ?cmd⟩
  case unassigned => exact fun n v s live hn => wr_unassigned params n v live hn
  case denied =>
    intro r v s live hr failed
    exact (wr_cell params r v live hr).trans (if_neg (by tauto))
  case cmd => exact fun x s live => wr_cmd_num params x live

/-- Settles O21: outside FAULT the word decodes to its command, in FAULT the two are dropped alike. -/
theorem commandWriteRunsTheCommand : Obligations.CommandWriteRunsTheCommand := by
  simp only [Obligations.CommandWriteRunsTheCommand, exec_eq_effect, Host.Outcome.next.injEq]
  exact fun s => ⟨wr_cmd_nop params s, wr_cmd_init params s, wr_cmd_tick params s⟩

/-- Settles O23: NOP is the identity, and so is the write that carries it. -/
theorem nopChangesNothing : Obligations.NopChangesNothing := by
  simp only [Obligations.NopChangesNothing, exec_eq_effect, Host.Outcome.next.injEq]
  exact ⟨rfl, fun _ => rfl, wr_cmd_nop params⟩

/-- Settles O24: a bit of the word is a bit of the mask, and a bit of the mask is its check. -/
theorem validityMaskReportsEveryFailure : Obligations.ValidityMaskReportsEveryFailure := by
  intro c
  obtain ⟨hgear, hres, hperiod, hk, hpwm, hclamp, hgain, hhigh⟩ := cfgDetail_word_fields (validityMask params c)
  refine ⟨?bits, CfgDetail.any_iff_word_ne_zero _⟩
  rw [hgear, hres, hperiod, hk, hpwm, hclamp, hgain]
  obtain ⟨gear, res, period, k, pwm, clamp, gain⟩ := validityMask_bits c
  exact ⟨gear, res, period, k, pwm, clamp, gain, hhigh⟩

/-- Settles O25: the premises are the seven checks, so the configuration is constructed. -/
theorem initConstructsFromAValidConfiguration : Obligations.InitConstructsFromAValidConfiguration := by
  intro s hl gear encRes sampleMs klpf0 klpf1 pwmMin pwmMax clamp gains
  have valid := (valid_iff s.cfg).mpr
    ⟨gear, encRes, sampleMs, ⟨klpf0, klpf1⟩, ⟨pwmMin, pwmMax⟩, clamp, gains⟩
  rw [exec_eq_effect, effect, init_of_valid params hl valid]
  rfl

/-- Settles O26: a successful INIT zeroes its two banks, and in UNCONF the duties are 0 by the invariant. -/
theorem initLeavesTheControllerZero : Obligations.InitLeavesTheControllerZero := by
  intro s t inv hl ht idle
  rw [exec_eq_effect] at ht
  cases ht
  have valid := (init_idle_iff params hl).mp idle
  obtain ⟨-, -, hduty⟩ := inv.unstarted (.inl hl)
  rw [effect, init_of_valid params hl valid]
  refine ⟨rfl, fun r hr => ?_⟩
  cases r with
  | vel | velPrev | pPrev | iPrev | target => rfl
  | dutyA | dutyB => simp only [readCell, Reg.cellType, hduty]
  | delta | raw | pNew | iNew | dNew | u => rfl
  | _ => simp [Reg.bank] at hr

/-- Settles O28: past UNCONF INIT is refused or dropped; a rejected INIT leaves UNCONF, from where the next one
decides by the cells it finds (R172). -/
theorem initSucceedsOnceAndMayBeRetried : Obligations.InitSucceedsOnceAndMayBeRetried := by
  simp only [Obligations.InitSucceedsOnceAndMayBeRetried, exec_eq_effect, Host.Outcome.next.injEq]
  refine ⟨?again, ?dropped, ?retry⟩
  case again => exact fun s ha => init_of_accepts params s ha
  case dropped => exact fun s hf => init_of_fault params hf
  case retry =>
    intro s t c hl invalid ht
    rw [effect, init_of_invalid params hl invalid] at ht
    subst ht
    refine ⟨hl, rfl, rfl, _, rfl, ?cfg, ?detail, ?flag, ?state⟩
    case cfg => exact effect_cfg params .init _ (.inr nofun)
    case detail => exact init_cfgDetail params hl
    case flag => exact effect_keeps_flag params .init _ .cfgErr rfl
    case state =>
      refine (init_lifecycle params _).trans ?_
      cases (validityMask params c).any <;> simp [hl]

/-- Settles O57: GAIN_BAD is one of the bits of which any rejects the construction (R165, R170). -/
theorem gainRangeDecidesConstruction : Obligations.GainRangeDecidesConstruction := by
  intro N P s hl
  refine ⟨?bit, ?rejected, ?decided⟩
  case bit => exact congrArg CfgDetail.gainBad (init_cfgDetail P hl)
  case rejected =>
    intro outOfRange
    exact init_of_invalid P hl (by simp [CfgDetail.any, validityMask, outOfRange])
  case decided =>
    intro inRange
    have hgain : (validityMask P s.cfg).gainBad = false := by simp [validityMask, inRange]
    rw [← hgain]
    exact (init_idle_iff P hl).trans (CfgDetail.any_eq_false_iff _)

end Sys2Proof.Proofs
end

section
/-! SUPPORT. What FAULT leaves of an operation as one update, the values of a cycle as a function of what it
reads, and the result a TICK reports (60_exceptions.md R191 to R193). -/

namespace Sys2Proof.Machine

variable {N : Type} (P : Params N) {s : State.Of N}

/-! ### Every operation in FAULT (R193) -/

theorem rd_of_fault (n : RegNum) (hf : s.lifecycle = .fault) :
    ∃ o, rd n s = { s with out := o } := by
  obtain ⟨r, -, ht⟩ | ⟨-, -, ht⟩ | ⟨-, live, -⟩ := rd_cases n s
  · exact ⟨_, ht⟩
  · exact ⟨_, ht⟩
  · exact absurd hf live

theorem wr_of_fault (n : RegNum) (v : Payload N) (hf : s.lifecycle = .fault) :
    ∃ o, wr P n v s = { s with out := o } := by
  have dropped : wr P n v s = dropWrite n v s := if_pos hf
  rw [dropped]
  cases v with
  | num x => exact ⟨s.out, rfl⟩
  | int w =>
    simp only [dropWrite]
    split
    · exact ⟨.tick .dropped, rfl⟩
    · exact ⟨s.out, rfl⟩

/-- In FAULT an operation outside the micro-program writes its output and nothing else. -/
theorem effect_of_fault (i : Instr N) (hi : i.isMicro = false) (hf : s.lifecycle = .fault) :
    ∃ o, effect P i s = { s with out := o } := by
  cases i with
  | nop => exact ⟨s.out, rfl⟩
  | init => exact ⟨s.out, init_of_fault P hf⟩
  | tick => exact ⟨.tick .dropped, tick_of_fault P hf⟩
  | rd n => exact rd_of_fault n hf
  | wr n v => exact wr_of_fault P n v hf
  | rdrst | est | tgt | pid | map | commit => cases hi

/-- FAULT stands between events: a step there is RESET or leaves the cells. -/
theorem stepWith_of_fault {t : State.Of N} (hf : s.lifecycle = .fault) (ht : stepWith P s = .next t) :
    t.sameCells s ∨ ∃ a rest, s.arrivals = a :: rest ∧ a.reset = true ∧ t.lifecycle = .unconf := by
  obtain ⟨mid, -⟩ | ⟨-, a, n, rfl⟩ | ⟨a, rest, ha, hr, rfl⟩ | ⟨-, i, p, a, n, hi, rfl⟩ :=
    stepWith_cases P s t ht
  · simp [State.Of.midCycle, hf] at mid
  · exact .inl (by simp [State.Of.sameCells])
  · exact .inr ⟨a, rest, ha, hr, resetBlock_lifecycle ..⟩
  · have host : i.isMicro = false := by
      obtain rfl | ⟨x, rfl⟩ | ⟨x, v, rfl⟩ := hi <;> rfl
    obtain ⟨o, ho⟩ :=
      effect_of_fault P (s := startEvent p { s with arrivals := a, freeCount := n }) i host hf
    exact .inl (by simp [ho, State.Of.sameCells])

/-! ### The values of a cycle (R192) -/

/-- A cycle reads MotorConfig, ControllerState, the count and the target, and no fault input enters its
values. -/
theorem CycleValues.agree {P : Params N} {s' : State.Of N} (v : CycleValues P s) (w : CycleValues P s')
    (cfg : s'.cfg = s.cfg) (ctl : s'.ctl = s.ctl) (cnt : s'.ports.cnt = s.ports.cnt)
    (tgt : s'.ports.tgt = s.ports.tgt) :
    v.latches = w.latches ∧ v.vel = w.vel ∧ v.target = w.target := by
  have raw : v.raw = w.raw := by rw [v.raw_eq, w.raw_eq, cfg, cnt]
  have vel : v.vel = w.vel := by rw [v.vel_eq, w.vel_eq, cfg, ctl, raw]
  have target : v.target = w.target := by rw [v.target_eq, w.target_eq, cfg, tgt]
  have p : v.p = w.p := by rw [v.p_eq, w.p_eq, target, vel]
  have i : v.i = w.i := by rw [v.i_eq, w.i_eq, cfg, ctl, p]
  have d : v.d = w.d := by rw [v.d_eq, w.d_eq, ctl, p]
  have u : v.u = w.u := by rw [v.u_eq, w.u_eq, cfg, p, i, d]
  exact ⟨by simp only [latches, cnt, raw, p, i, d, u], vel, target⟩

/-! ### The result of a TICK (R191) -/

/-- What the cells hold after a TICK with this result. -/
def TickResult.AgreesWith (t : State.Of N) : TickResult → Prop
  | .ok a b => t.lifecycle = .running ∧ t.phase = 0 ∧ t.duty = { a := a, b := b }
  | .fault e => t.lifecycle = .fault ∧ t.cause = some e
  | .refused e => t.lifecycle = .unconf ∧ t.cause = some e
  | .dropped => t.lifecycle = .fault

theorem tick_agrees {r : TickResult} (hr : (tick P s).out = .tick r) : r.AgreesWith (tick P s) := by
  obtain ⟨hl, ht⟩ | ⟨hf, ht⟩ | ⟨ha, hc⟩ | ⟨ha, hc, hp⟩ | ⟨ha, hc, hp⟩ := tick_cases P s
  · rw [ht] at hr ⊢
    cases hr
    exact ⟨(raise_recorded_lifecycle _ s rfl).trans hl, raise_cause ..⟩
  · rw [ht] at hr ⊢
    cases hr
    exact hf
  · rw [tick_cntFault P s ha hc] at hr ⊢
    cases hr
    exact ⟨rfl, rfl⟩
  · obtain ⟨v, ht⟩ := tick_pwmFault P s ha hc hp
    rw [ht] at hr ⊢
    cases hr
    exact ⟨rfl, rfl⟩
  · obtain ⟨v, ht⟩ := tick_complete P s ha hc hp
    rw [ht] at hr ⊢
    cases hr
    exact ⟨rfl, rfl, rfl⟩

/-- Of an accepted TICK the fault inputs decide, the counter's first. -/
theorem tick_out_of_accepts (ha : s.accepts = true) :
    (tick P s).out =
      .tick (if s.ports.cntFail then .fault .cntFault
        else if s.ports.pwmFail then .fault .pwmFault
        else .ok (tick P s).duty.a (tick P s).duty.b) := by
  cases hc : s.ports.cntFail with
  | true => rw [tick_cntFault P s ha hc, if_pos rfl]
  | false =>
    cases hp : s.ports.pwmFail with
    | true =>
      obtain ⟨v, ht⟩ := tick_pwmFault P s ha hc hp
      rw [ht]
      rfl
    | false =>
      obtain ⟨v, ht⟩ := tick_complete P s ha hc hp
      rw [ht]
      rfl

end Sys2Proof.Machine
end

section
/-! PROOFS. The settled statements about the exceptions (60_exceptions.md). -/

namespace Sys2Proof.Proofs

open Sys2Proof.Machine

/-- Settles O16: in FAULT no cycle is under way, and an operation of the host writes its output only. -/
theorem faultIsFinalUntilReset : Obligations.FaultIsFinalUntilReset := by
  refine ⟨?step, ?operation, ?cell, ?unassigned⟩
  case step =>
    intro s t hf ht
    rw [step_eq_stepWith] at ht
    exact stepWith_of_fault params hf ht
  case operation =>
    intro i s t hi hf ht
    rw [exec_eq_effect] at ht
    cases ht
    obtain ⟨o, ho⟩ := effect_of_fault params i hi hf
    simp [ho, State.Of.sameCells, State.Of.sameOutside]
  case cell =>
    intro r s _
    rw [exec_eq_effect, effect, rd_number]
  case unassigned =>
    intro n s hf hn
    rw [exec_eq_effect]
    simp only [effect, rd, hn, if_pos hf]

/-- Settles O27: a mask that is not 0 as a word has a failed check, which rejects the INIT (R183). -/
theorem initRejectsAnInvalidConfiguration : Obligations.InitRejectsAnInvalidConfiguration := by
  intro s hl hword
  rw [exec_eq_effect, effect, init_of_invalid params hl ((CfgDetail.any_iff_word_ne_zero _).mpr hword)]

/-- Settles O48: RDRST looks at the counter's fault before it touches a port, and the cycle ends there. -/
theorem counterFaultCutsTheCycleAtStepOne : Obligations.CounterFaultCutsTheCycleAtStepOne := by
  intro s ha hc
  rw [exec_eq_effect, effect, tick_cntFault params s ha hc]

/-- Settles O49: up to step 5 the cut cycle and the one that completes compute the same values; then the first
skips the write and the commit (R192). -/
theorem pwmFaultCutsTheCycleAtStepFive : Obligations.PwmFaultCutsTheCycleAtStepFive := by
  simp only [Obligations.PwmFaultCutsTheCycleAtStepFive, exec_eq_effect, Host.Outcome.next.injEq]
  intro s ha _ hc hp
  obtain ⟨v, ht⟩ := tick_pwmFault params s ha hc hp
  obtain ⟨w, hg⟩ :=
    tick_complete params { s with ports := { s.ports with pwmFail := false } } ha hc rfl
  obtain ⟨lat, vel, target⟩ := v.agree w rfl rfl rfl rfl
  refine ⟨_, _, ht, hg, ?cells⟩
  case cells => simp only [lat, vel, target, and_self]

/-- Settles O51: the result is decided by `STATE` and the fault inputs, and whichever it is, the cells agree
with it. -/
theorem tickReportsItsResult : Obligations.TickReportsItsResult := by
  intro s t ht
  rw [exec_eq_effect] at ht
  cases ht
  refine ⟨fun e => tick_agrees params, tick_agrees params, fun a b => tick_agrees params,
    tick_agrees params, ?result⟩
  cases hl : s.lifecycle with
  | unconf => exact congrArg State.Of.out (tick_of_unconf params s hl)
  | fault => exact congrArg State.Of.out (tick_of_fault params hl)
  | idle | running => exact tick_out_of_accepts params ((accepts_iff s).mpr (by simp [hl]))

end Sys2Proof.Proofs
end

section
/-! SUPPORT. What the cells hold after RESET, and the step without an event (70_reset_and_hazards.md R210 to R212). -/

namespace Sys2Proof.Machine

variable {N : Type}

/-- The zero of each type of cell; `z` is `ofInt(0)`. -/
def zeroPayload (z : N) : CellType → Payload N
  | .int => .int 0
  | .num => .num z

theorem statusWord_zeroed (z : N) : statusWord (State.zeroed z) = 0 := by
  simp [statusWord, State.zeroed, Lifecycle.code, bitAt]

theorem ctrlWord_zero (z : N) : (MotorConfig.zero z).ctrlWord = 0 := by
  simp [MotorConfig.ctrlWord, MotorConfig.zero, bitAt]

theorem cfgDetail_word_zero : CfgDetail.zero.word = 0 := by decide

/-- After reset every cell reads the zero of its type, over any carrier (70_reset_and_hazards.md R211). -/
@[simp] theorem readCell_zeroed (z : N) (r : Reg) :
    readCell r (State.zeroed z) = zeroPayload z r.cellType := by
  cases r with
  | status => exact congrArg Payload.int (statusWord_zeroed z)
  | ctrl => exact congrArg Payload.int (ctrlWord_zero z)
  | cfgDetail => exact congrArg Payload.int cfgDetail_word_zero
  | _ => rfl

/-- The reset state is the zeroed one of the parameters of this block. -/
theorem reset_eq_zeroed : State.reset = State.zeroed (params.ofInt 0) := by
  rw [params_ofInt, Int.cast_zero]
  rfl

/-- A read sees the cells only. -/
theorem readCell_of_sameCells (r : Reg) {s t : State.Of N} (h : t.sameCells s) :
    readCell r t = readCell r s := by
  rw [eq_of_sameCells h]
  cases r <;> rfl

/-- RESET zeroes every cell, whatever the state it finds. -/
theorem resetBlock_sameCells_zeroed (P : Params N) (s : State.Of N) :
    (resetBlock P s).sameCells (State.zeroed (P.ofInt 0)) := by
  simp [State.Of.sameCells, State.zeroed]

/-- Outside a cycle a step without an event changes nothing (70_reset_and_hazards.md R211). -/
theorem step_of_no_arrivals {s : State} (hm : s.midCycle = false) (ha : s.arrivals = []) :
    step s = .next s := by
  simp [step, fetchNext, takeEvent, hm, ha]

end Sys2Proof.Machine
end

section
/-! PROOFS. The settled statements about reset (70_reset_and_hazards.md). -/

namespace Sys2Proof.Proofs

open Sys2Proof.Machine

/-- Settles O7: the reset line is looked at first, so the step is RESET of the state without its next arrival. -/
theorem resetEventZeroesTheBlockOnly : Obligations.ResetEventZeroesTheBlockOnly := by
  intro s a rest ha hr
  have cells : (resetBlock params { s with arrivals := rest }).sameCells State.reset :=
    reset_eq_zeroed ▸ resetBlock_sameCells_zeroed params _
  exact ⟨_, step_of_reset s a rest ha hr, cells, fun r => readCell_of_sameCells r cells,
    resetBlock_ports .., resetBlock_pwmExt .., resetBlock_portLog .., resetBlock_arrivals ..⟩

/-- Settles O6: the cells are those of the zeroed state, and in UNCONF with nothing to arrive no operation is
fetched. -/
theorem resetZeroesEveryCell : Obligations.ResetZeroesEveryCell := by
  refine ⟨fun r => ?cell, rfl, step_of_no_arrivals rfl rfl⟩
  case cell =>
    rw [State.reset, readCell_zeroed]
    cases r.cellType <;> rfl

/-- Settles O8: the zeroed state meets the invariant for these parameters. -/
theorem resetMeetsTheInvariant : Obligations.ResetMeetsTheInvariant := by
  rw [Obligations.ResetMeetsTheInvariant, reset_eq_zeroed]
  exact BlockInv.zeroed

end Sys2Proof.Proofs
end
